-- ==== Sys2Proof/Word.lean ====
section
/-! DEFINITION. The word types of the frame codec (spec 00 R6: every quantity is unsigned; 00 section 6.1: bit 0 is
the least significant bit). -/

namespace Sys2Proof

/-- A byte of the frame buffer, and the 8-bit register fields (00 section 6.1). -/
abbrev Byte := BitVec 8

/-- A 16-bit quantity: `position`, `command`, `RET` (10 R12, R22). -/
abbrev Half := BitVec 16

/-- A command word `CMD` (30 R81). -/
abbrev CmdWord := BitVec 32

/-- The presence bits of the command word as Booleans: 1 is `true` (10 R23). -/
def bitOf (b : Bool) : BitVec 1 := if b then 1#1 else 0#1

end Sys2Proof
end

