-- ==== Sys2Proof/Config.lean ====
section
/-! DEFINITION. What is fixed for one machine: the capacities, record sizes, header sizes and status bit positions
(spec 00 R1, R2; 30 R64, R68, R69; each named once, 93 U10), the size of the frame buffer (93 U11), and the free
values of everything the spec leaves UNSPEC (93 U1, U2). -/

namespace Sys2Proof.Config

/-- `MAX_SERVOS` (00 R1). -/
abbrev maxServos : Nat := 8
/-- `MAX_CONTROLLED` (00 R1). -/
abbrev maxControlled : Nat := 8
/-- `MAX_UNCONTROLLED` (00 R1). -/
abbrev maxUncontrolled : Nat := 8
/-- `MAX_BRUSHLESS` (00 R1). -/
abbrev maxBrushless : Nat := 8

/-- Servo header, bytes (00 R2). -/
abbrev servoHeaderSize : Nat := 1
/-- Servo record, bytes (00 R2). -/
abbrev servoRecordSize : Nat := 6
/-- Motor header, bytes (00 R2). -/
abbrev motorHeaderSize : Nat := 3
/-- Controlled-motor record, bytes (00 R2). -/
abbrev controlledRecordSize : Nat := 4
/-- Uncontrolled-motor record, bytes (00 R2). -/
abbrev uncontrolledRecordSize : Nat := 2
/-- Brushless record, bytes (00 R2). -/
abbrev brushlessRecordSize : Nat := 2
/-- The IO frame, bytes (00 R2, 30 R73). -/
abbrev ioFrameSize : Nat := 1

/-- Servo status byte: bit of `command_type` (30 R64). -/
abbrev commandTypeBit : Nat := 5
/-- Servo status byte: bit of `blocked` (30 R64). -/
abbrev blockedBit : Nat := 4
/-- Servo status byte: bit of `blocking_mode` (30 R64). -/
abbrev blockingModeBit : Nat := 3
/-- Controlled-motor status byte: bit of `finished` (30 R68). -/
abbrev finishedBit : Nat := 1
/-- Controlled-motor status byte: bit of `new_command` (30 R68). -/
abbrev newCommandBit : Nat := 0
/-- Uncontrolled-motor status byte: bit of `on_off` (30 R69). -/
abbrev onOffBit : Nat := 1
/-- Uncontrolled-motor status byte: bit of `rotation` (30 R69). -/
abbrev rotationBit : Nat := 0

/-- The longest frame any operation reads or writes, `3 + 4*8 + 2*8 + 2*8` (20 R48). -/
abbrev longestFrame : Nat := 67

/-- How many bytes `FB` has beyond the 67 that 20 R40 asks for: a parameter nobody can see (93 U11; log 4). -/
opaque fbExtra : Nat

/-- `FB_SIZE`, with its one constraint `FB_SIZE >= 67` built in (20 R40, D3; log 4). -/
def fbSize : Nat := fbExtra + longestFrame

/-- The free values: `UNSPEC` of the given width (00 section 6.2, 93 U1, U2). `draw` numbers the occasion (a failed
READ, a reset), `field` tells the fields of one occasion apart, so that each is independent. It has no body: nothing
can evaluate it (log 2). -/
opaque unspec (width draw field : Nat) : BitVec width

end Sys2Proof.Config
end

