-- ==== Sys2Proof/Syntax.lean ====
section
/-! DEFINITION. The commands of the block (spec 30 R80, R88), the names of its register fields (10 R12 to R22), and
the host's script: the host actions of 30 R89 and the commands the host presents (10 R24, R29). -/

namespace Sys2Proof

/-- The thirteen operations (30 R80) with the operands of 10 R23: `src` is `SRC_VALID`, `dst` is `DST_VALID`, `obj` is
`OBJ_VALID`. Lengths, capacities and counts are naturals (00 R6); that they fit the command word is `Instr.wellFormed`
(93 U12; log 9). -/
inductive Instr where
  | servoRead (src : Bool) (len : Nat)
  | servoWrite (dst obj : Bool) (cap : Nat)
  | servoSize (n : Nat)
  | motorRead (src : Bool) (len : Nat)
  | motorWrite (dst obj : Bool) (cap : Nat)
  | motorSize (c u b : Nat)
  | ioRead (src : Bool) (len : Nat)
  | ioWrite (dst obj : Bool) (cap : Nat)
  | ioSize
  | avoidRead (src : Bool) (len : Nat)
  | avoidWrite (dst obj : Bool) (cap : Nat)
  | movingRead (src : Bool) (len : Nat)
  | movingWrite (dst obj : Bool) (cap : Nat)
  deriving DecidableEq, Repr

/-- Why a command word is reserved (30 R86): its `OP` is 0x3, 0x7 or 0xB, or a must-be-zero bit of the selected
format is 1. -/
inductive Reserved where
  | operation
  | mustBeZero
  deriving DecidableEq, Repr

/-- The fields of a servo slot (10 R12). -/
inductive ServoField where
  | id | position | command | commandType | blocked | blockingMode | color
  deriving DecidableEq, Repr

/-- The fields of a controlled-motor slot (10 R16). -/
inductive ControlledField where
  | id | wantedAngle | wantedNbTurns | finished | newCommand
  deriving DecidableEq, Repr

/-- The fields of an uncontrolled-motor slot (10 R17). -/
inductive UncontrolledField where
  | id | onOff | rotation
  deriving DecidableEq, Repr

/-- The fields of a brushless slot (10 R18). -/
inductive BrushlessField where
  | id | onOff
  deriving DecidableEq, Repr

/-- Every register field of the block, by name (10 R10 to R22, R25: no two names alias). -/
inductive Reg where
  | servo (i : Fin Config.maxServos) (f : ServoField)
  | nbServos
  | servoParsingFailed
  | controlled (i : Fin Config.maxControlled) (f : ControlledField)
  | uncontrolled (i : Fin Config.maxUncontrolled) (f : UncontrolledField)
  | brushless (i : Fin Config.maxBrushless) (f : BrushlessField)
  | motorParsingFailed
  | tirette
  | ioParsingFailed
  | avoidParsingFailed
  | movingParsingFailed
  | ret
  deriving DecidableEq, Repr

/-- The width of each register field, in bits (10 R12 to R22). -/
def Reg.width : Reg → Nat
  | .servo _ .id => 8
  | .servo _ .position => 16
  | .servo _ .command => 16
  | .servo _ .commandType => 1
  | .servo _ .blocked => 1
  | .servo _ .blockingMode => 1
  | .servo _ .color => 3
  | .nbServos => 8
  | .servoParsingFailed => 1
  | .controlled _ .id => 8
  | .controlled _ .wantedAngle => 8
  | .controlled _ .wantedNbTurns => 8
  | .controlled _ .finished => 1
  | .controlled _ .newCommand => 1
  | .uncontrolled _ .id => 8
  | .uncontrolled _ .onOff => 1
  | .uncontrolled _ .rotation => 1
  | .brushless _ .id => 8
  | .brushless _ .onOff => 8
  | .motorParsingFailed => 1
  | .tirette => 8
  | .ioParsingFailed => 1
  | .avoidParsingFailed => 1
  | .movingParsingFailed => 1
  | .ret => 16

/-- Something the host can read (10 R29): a register field or a byte of `FB`. -/
inductive HostPlace where
  | reg (r : Reg)
  | byte (a : Nat)
  deriving DecidableEq, Repr

/-- A test the host makes on a value it reads (30 R89 `HOST if`; log 7). -/
inductive HostTest where
  | equals (p : HostPlace) (v : Nat)
  | below (p : HostPlace) (v : Nat)
  deriving DecidableEq, Repr

/-- What the host does in one step: it presents a command word (30 R81), or takes one of the host actions of 30 R89. -/
inductive HostAction where
  /-- The host presents a command word. -/
  | command (w : CmdWord)
  /-- `HOST FB[a..] <- b0 b1 ...` -/
  | storeBytes (a : Nat) (bytes : List Byte)
  /-- `HOST <register field> <- value`, truncated to the field's width (10 R29). -/
  | storeReg (r : Reg) (v : Nat)
  /-- `HOST read <register field, RET or byte of FB>` -/
  | read (p : HostPlace)
  /-- `RESET` (70 R180). -/
  | reset
  deriving DecidableEq, Repr

/-- The host's script (30 R89, 60 R173): a finite tree of actions, branching on values the host reads. It is the
host's, not state the spec gives the block; State carries it so that a step is a function of the state (log 1). -/
inductive HostScript where
  | done
  | act (a : HostAction) (rest : HostScript)
  | branch (t : HostTest) (yes no : HostScript)
  deriving DecidableEq, Repr

end Sys2Proof
end

