-- ==== Sys2Proof/WellFormed.lean ====
section
/-! DEFINITION. Which commands the command word can carry (spec 10 R23, 93 U12) and which host actions address bytes
that exist (20 R42, R51). -/

namespace Sys2Proof

/-- `LEN` and `CAP` have 16 bits; `A0`, `A1` and `A2` have 8 (10 R23, 93 U12). Every value in range is legal (30 R87). -/
def Instr.wellFormed : Instr → Bool
  | .servoRead _ len => decide (len < 65536)
  | .servoWrite _ _ cap => decide (cap < 65536)
  | .servoSize n => decide (n < 256)
  | .motorRead _ len => decide (len < 65536)
  | .motorWrite _ _ cap => decide (cap < 65536)
  | .motorSize c u b => decide (c < 256) && decide (u < 256) && decide (b < 256)
  | .ioRead _ len => decide (len < 65536)
  | .ioWrite _ _ cap => decide (cap < 65536)
  | .ioSize => true
  | .avoidRead _ len => decide (len < 65536)
  | .avoidWrite _ _ cap => decide (cap < 65536)
  | .movingRead _ len => decide (len < 65536)
  | .movingWrite _ _ cap => decide (cap < 65536)

/-- The place exists: a byte of `FB` has an index below `FB_SIZE` (20 R42, R51). -/
def HostPlace.wellFormed : HostPlace → Bool
  | .reg _ => true
  | .byte a => decide (a < Config.fbSize)

/-- The place the test reads exists. -/
def HostTest.wellFormed : HostTest → Bool
  | .equals p _ => p.wellFormed
  | .below p _ => p.wellFormed

/-- The bytes the host action touches exist. A command word is any word: whether it is reserved is the decoder's
business (30 R86). -/
def HostAction.wellFormed : HostAction → Bool
  | .command _ => true
  | .storeBytes a bytes => bytes.isEmpty || decide (a + bytes.length ≤ Config.fbSize)
  | .storeReg _ _ => true
  | .read p => p.wellFormed
  | .reset => true

/-- Every action and test of the script is well-formed. -/
def HostScript.wellFormed : HostScript → Bool
  | .done => true
  | .act a rest => a.wellFormed && rest.wellFormed
  | .branch t yes no => t.wellFormed && yes.wellFormed && no.wellFormed

end Sys2Proof
end

