-- ==== Sys2Proof/Decode.lean ====
section
/-! DEFINITION. The command word (spec 30 Part B): the decoder of R81 to R87, total and rejecting reserved words by
name, the operation map of R85 as data, and after them the encoder of R88. -/

namespace Sys2Proof

/-- `OP`, bits 31:28 (30 R81). -/
def opField (w : CmdWord) : BitVec 4 := w.extractLsb' 28 4

/-- `LEN` of format R and `CAP` of format W, bits 15:0 (30 R82, R83). -/
def lenField (w : CmdWord) : Nat := (w.extractLsb' 0 16).toNat

/-- `A0`, bits 23:16 (30 R84). -/
def a0Field (w : CmdWord) : Nat := (w.extractLsb' 16 8).toNat

/-- `A1`, bits 15:8 (30 R84). -/
def a1Field (w : CmdWord) : Nat := (w.extractLsb' 8 8).toNat

/-- `A2`, bits 7:0 (30 R84). -/
def a2Field (w : CmdWord) : Nat := (w.extractLsb' 0 8).toNat

/-- Format R (30 R82): `SRC_VALID` is bit 27, bits 26:16 must be zero. -/
def decodeFormatR (make : Bool → Nat → Instr) (w : CmdWord) : Except Reserved Instr :=
  if w.extractLsb' 16 11 = 0#11 then .ok (make (w.getLsbD 27) (lenField w)) else .error .mustBeZero

/-- Format W (30 R83): `DST_VALID` is bit 27, `OBJ_VALID` bit 26, bits 25:16 must be zero. -/
def decodeFormatW (make : Bool → Bool → Nat → Instr) (w : CmdWord) : Except Reserved Instr :=
  if w.extractLsb' 16 10 = 0#10 then .ok (make (w.getLsbD 27) (w.getLsbD 26) (lenField w)) else .error .mustBeZero

/-- Format S of `SERVO_SIZE` (30 R84): bits 27:24, `A1` and `A2` must be zero. -/
def decodeServoSize (w : CmdWord) : Except Reserved Instr :=
  if w.extractLsb' 24 4 = 0#4 ∧ w.extractLsb' 0 16 = 0#16 then .ok (.servoSize (a0Field w)) else .error .mustBeZero

/-- Format S of `MOTOR_SIZE` (30 R84): bits 27:24 must be zero. -/
def decodeMotorSize (w : CmdWord) : Except Reserved Instr :=
  if w.extractLsb' 24 4 = 0#4 then .ok (.motorSize (a0Field w) (a1Field w) (a2Field w)) else .error .mustBeZero

/-- Format S of `IO_SIZE` (30 R84): bits 27:0 must be zero. -/
def decodeIoSize (w : CmdWord) : Except Reserved Instr :=
  if w.extractLsb' 0 28 = 0#28 then .ok .ioSize else .error .mustBeZero

/-- The operation map (30 R85). A word that selects no operation is reserved and is rejected with the reason (R86). -/
def decode (w : CmdWord) : Except Reserved Instr :=
  match (opField w).toNat with
  | 0x0 => decodeFormatR .servoRead w
  | 0x1 => decodeFormatW .servoWrite w
  | 0x2 => decodeServoSize w
  | 0x4 => decodeFormatR .motorRead w
  | 0x5 => decodeFormatW .motorWrite w
  | 0x6 => decodeMotorSize w
  | 0x8 => decodeFormatR .ioRead w
  | 0x9 => decodeFormatW .ioWrite w
  | 0xA => decodeIoSize w
  | 0xC => decodeFormatR .avoidRead w
  | 0xD => decodeFormatW .avoidWrite w
  | 0xE => decodeFormatR .movingRead w
  | 0xF => decodeFormatW .movingWrite w
  | _ => .error .operation

/-- `OP` of each operation (30 R85). -/
def Instr.opcode : Instr → BitVec 4
  | .servoRead _ _ => 0x0#4
  | .servoWrite _ _ _ => 0x1#4
  | .servoSize _ => 0x2#4
  | .motorRead _ _ => 0x4#4
  | .motorWrite _ _ _ => 0x5#4
  | .motorSize _ _ _ => 0x6#4
  | .ioRead _ _ => 0x8#4
  | .ioWrite _ _ _ => 0x9#4
  | .ioSize => 0xA#4
  | .avoidRead _ _ => 0xC#4
  | .avoidWrite _ _ _ => 0xD#4
  | .movingRead _ _ => 0xE#4
  | .movingWrite _ _ _ => 0xF#4

/-- The rows of 30 R85 (and of `opcode_table.json`), each as (`OP`, match, mask), in the table's order. -/
def opcodeTable : List (BitVec 4 × CmdWord × CmdWord) :=
  [(0x0#4, 0x00000000#32, 0xF7FF0000#32), (0x1#4, 0x10000000#32, 0xF3FF0000#32),
   (0x2#4, 0x20000000#32, 0xFF00FFFF#32), (0x4#4, 0x40000000#32, 0xF7FF0000#32),
   (0x5#4, 0x50000000#32, 0xF3FF0000#32), (0x6#4, 0x60000000#32, 0xFF000000#32),
   (0x8#4, 0x80000000#32, 0xF7FF0000#32), (0x9#4, 0x90000000#32, 0xF3FF0000#32),
   (0xA#4, 0xA0000000#32, 0xFFFFFFFF#32), (0xC#4, 0xC0000000#32, 0xF7FF0000#32),
   (0xD#4, 0xD0000000#32, 0xF3FF0000#32), (0xE#4, 0xE0000000#32, 0xF7FF0000#32),
   (0xF#4, 0xF0000000#32, 0xF3FF0000#32)]

/-- `(w AND mask) = match` (30 R85). -/
def selectsRow (w : CmdWord) (row : BitVec 4 × CmdWord × CmdWord) : Bool := w &&& row.2.2 == row.2.1

/-- Format R assembled from its fields, most significant first (30 R82). -/
def encodeFormatR (op : BitVec 4) (src : Bool) (len : Nat) : CmdWord :=
  op ++ bitOf src ++ 0#11 ++ BitVec.ofNat 16 len

/-- Format W assembled from its fields, most significant first (30 R83). -/
def encodeFormatW (op : BitVec 4) (dst obj : Bool) (cap : Nat) : CmdWord :=
  op ++ bitOf dst ++ bitOf obj ++ 0#10 ++ BitVec.ofNat 16 cap

/-- Format S assembled from its fields, most significant first (30 R84). -/
def encodeFormatS (op : BitVec 4) (a0 a1 a2 : Nat) : CmdWord :=
  op ++ 0#4 ++ BitVec.ofNat 8 a0 ++ BitVec.ofNat 8 a1 ++ BitVec.ofNat 8 a2

/-- The command word of a well-formed instruction (30 R88). -/
def encode (i : Instr) : CmdWord :=
  match i with
  | .servoRead src len => encodeFormatR i.opcode src len
  | .servoWrite dst obj cap => encodeFormatW i.opcode dst obj cap
  | .servoSize n => encodeFormatS i.opcode n 0 0
  | .motorRead src len => encodeFormatR i.opcode src len
  | .motorWrite dst obj cap => encodeFormatW i.opcode dst obj cap
  | .motorSize c u b => encodeFormatS i.opcode c u b
  | .ioRead src len => encodeFormatR i.opcode src len
  | .ioWrite dst obj cap => encodeFormatW i.opcode dst obj cap
  | .ioSize => encodeFormatS i.opcode 0 0 0
  | .avoidRead src len => encodeFormatR i.opcode src len
  | .avoidWrite dst obj cap => encodeFormatW i.opcode dst obj cap
  | .movingRead src len => encodeFormatR i.opcode src len
  | .movingWrite dst obj cap => encodeFormatW i.opcode dst obj cap

/-- The word the opcode table's numbering stands for: the low `nbits` bits of `w`, every bit above them 0. A command is
one 32-bit word, so the table's bit numbers are the word's own (30 R81; log 10). -/
def tableWord (nbits w : Nat) : CmdWord := BitVec.ofNat 32 (w % 2 ^ nbits)

/-- What the decoder reads from an instruction whose bits are `w` in the opcode table's numbering (log 10). -/
def decodeTableWord (nbits w : Nat) : Option Instr :=
  match decode (tableWord nbits w) with
  | .ok i => some i
  | .error _ => none

end Sys2Proof
end

