-- ==== Sys2Proof/Machine/State.lean ====
section
/-! DEFINITION. The state of the block (spec 10 R10 to R22, 20 R40) as plain data, the ways a step can stop, and the
state after reset (10 R31, 70 R180, R181). -/

namespace Sys2Proof.Machine

/-- A servo slot (10 R12). -/
structure Servo where
  id : Byte
  position : Half
  command : Half
  commandType : BitVec 1
  blocked : BitVec 1
  blockingMode : BitVec 1
  color : BitVec 3
  deriving DecidableEq, Repr

/-- A controlled-motor slot (10 R16). -/
structure Controlled where
  id : Byte
  wantedAngle : Byte
  wantedNbTurns : Byte
  finished : BitVec 1
  newCommand : BitVec 1
  deriving DecidableEq, Repr

/-- An uncontrolled-motor slot (10 R17). -/
structure Uncontrolled where
  id : Byte
  onOff : BitVec 1
  rotation : BitVec 1
  deriving DecidableEq, Repr

/-- A brushless slot; `on_off` is a whole byte (10 R18, C5). -/
structure Brushless where
  id : Byte
  onOff : Byte
  deriving DecidableEq, Repr

/-- The empty slot, all fields 0 (00 R3, 10 R31). -/
def Servo.empty : Servo := ⟨0, 0, 0, 0, 0, 0, 0⟩
/-- The empty slot, all fields 0 (00 R3, 10 R31). -/
def Controlled.empty : Controlled := ⟨0, 0, 0, 0, 0⟩
/-- The empty slot, all fields 0 (00 R3, 10 R31). -/
def Uncontrolled.empty : Uncontrolled := ⟨0, 0, 0⟩
/-- The empty slot, all fields 0 (00 R3, 10 R31). -/
def Brushless.empty : Brushless := ⟨0, 0⟩

/-- The register group `SERVO` (10 R11 to R14). -/
structure ServoGroup where
  servos : Vector Servo Config.maxServos
  nbServos : Byte
  parsingFailed : Bool
  deriving DecidableEq, Repr

/-- The register group `MOTOR`; it has no count fields (10 R15 to R19). -/
structure MotorGroup where
  controlled : Vector Controlled Config.maxControlled
  uncontrolled : Vector Uncontrolled Config.maxUncontrolled
  brushless : Vector Brushless Config.maxBrushless
  parsingFailed : Bool
  deriving DecidableEq, Repr

/-- The register group `IO` (10 R20). -/
structure IoGroup where
  tirette : Byte
  parsingFailed : Bool
  deriving DecidableEq, Repr

/-- A placeholder group, `AVOID` or `MOVING`: the flag and nothing else (10 R21). -/
structure StubGroup where
  parsingFailed : Bool
  deriving DecidableEq, Repr

/-- The bytes of `FB` written since reset, as (index, byte) pairs, indices strictly rising. An index that is not
listed holds no written byte; what it reads as is `State.fbByte` (log 3). -/
abbrev Memory := List Host.Cell

/-- The state of the block: everything 10 R10 lists, and three fields of the model's own. -/
structure State where
  /-- `SERVO` (10 R11). -/
  servo : ServoGroup
  /-- `MOTOR` (10 R15). -/
  motor : MotorGroup
  /-- `IO` (10 R20). -/
  io : IoGroup
  /-- `AVOID` (10 R21). -/
  avoid : StubGroup
  /-- `MOVING` (10 R21). -/
  moving : StubGroup
  /-- `RET` (10 R22). -/
  ret : Half
  /-- `FB` (20 R40). -/
  fb : Memory
  /-- The model's own: the draw that the unwritten bytes of `FB` come from (log 3). -/
  fbDraw : Nat
  /-- The model's own: the number of the next free draw (log 2). -/
  draws : Nat
  /-- The model's own: what the host does next (log 1). -/
  host : HostScript
  deriving DecidableEq, Repr

/-- Why the machine stops with a fault. The block has no faults (60 R160); this is the model's. -/
inductive Fault where
  /-- An access to a byte that does not exist, at or above `FB_SIZE` (20 R42, R51). Raised by `memRead1` and
  `memWrite1`; no command ever meets it (20 R48 (d)), only a host action that names such a byte. Safe: the model stops
  where the spec describes no action (log 5). -/
  | outsideFrameBuffer (a : Nat)
  deriving DecidableEq, Repr

/-- Why the machine refuses to take a step. -/
inductive Refusal where
  /-- An instruction that has no meaning yet. Raised by a refused arm of `exec` and by nothing else. Safe. -/
  | notModelled (mnemonic : String)
  /-- A command word that selects no operation, with the reason (30 R86, 93 U3: refuse by name, no state change).
  Raised by `step`. Safe (log 6). -/
  | reservedCommand (why : Reserved) (w : CmdWord)
  deriving DecidableEq, Repr

/-- The state after reset (10 R31, 70 R180): every slot empty, every flag 1, every other register 0, and `FB`
unspecified (70 R181), that is, nothing listed. `draws`, `fbDraw` and `host` are the model's own (log 8). -/
def State.reset : State where
  servo := ⟨Vector.replicate _ Servo.empty, 0, true⟩
  motor := ⟨Vector.replicate _ Controlled.empty, Vector.replicate _ Uncontrolled.empty,
    Vector.replicate _ Brushless.empty, true⟩
  io := ⟨0, true⟩
  avoid := ⟨true⟩
  moving := ⟨true⟩
  ret := 0
  fb := []
  fbDraw := 0
  draws := 1
  host := .done

/-- `SERVO` replaced. -/
def State.setServo (s : State) (g : ServoGroup) : State := { s with servo := g }
/-- `MOTOR` replaced. -/
def State.setMotor (s : State) (g : MotorGroup) : State := { s with motor := g }
/-- `IO` replaced. -/
def State.setIo (s : State) (g : IoGroup) : State := { s with io := g }
/-- `AVOID` replaced. -/
def State.setAvoid (s : State) (g : StubGroup) : State := { s with avoid := g }
/-- `MOVING` replaced. -/
def State.setMoving (s : State) (g : StubGroup) : State := { s with moving := g }
/-- `RET <- v`. -/
def State.setRet (s : State) (v : Half) : State := { s with ret := v }
/-- The written bytes of `FB` replaced. -/
def State.setFb (s : State) (m : Memory) : State := { s with fb := m }
/-- The next free draw is used up (log 2). -/
def State.nextDraw (s : State) : State := { s with draws := s.draws + 1 }
/-- What the host does next replaced. -/
def State.setHost (s : State) (h : HostScript) : State := { s with host := h }

end Sys2Proof.Machine
end

