-- ==== Sys2Proof/Machine/Operands.lean ====
section
/-! DEFINITION. Operand forms: how a field stands in the bytes of a frame. The 16-bit fields are big-endian (spec 20
R43, R44; 30 R63), the status bytes bit-packed (30 R64, R68, R69), their other bits ignored by the decoders and 0 from
the encoders (30 R75). Also the size formulas of 30 R66 and R71, and which slots are populated (00 R3). -/

namespace Sys2Proof.Machine

/-- `v[15:8]` (20 R44). -/
def highByte (v : Half) : Byte := v.extractLsb' 8 8

/-- `v[7:0]` (20 R44). -/
def lowByte (v : Half) : Byte := v.extractLsb' 0 8

/-- `hi * 256 + lo`: the byte at the lower index is the more significant (20 R43). -/
def bigEndian (hi lo : Byte) : Half := hi ++ lo

/-- One bit of a status byte. -/
def statusBit (st : Byte) (bit : Nat) : BitVec 1 := st.extractLsb' bit 1

/-- A one-bit field at its place in a status byte. -/
def placeBit (v : BitVec 1) (bit : Nat) : Byte := v.setWidth 8 <<< bit

/-- The status byte of a servo record (30 R64), bits 7:6 zero (30 R75). -/
def packServoStatus (r : Servo) : Byte :=
  placeBit r.commandType Config.commandTypeBit ||| placeBit r.blocked Config.blockedBit |||
    placeBit r.blockingMode Config.blockingModeBit ||| r.color.setWidth 8

/-- A servo slot from a record's fields and its status byte (30 R64); bits 7:6 are ignored (30 R75). -/
def unpackServo (id : Byte) (position command : Half) (st : Byte) : Servo where
  id := id
  position := position
  command := command
  commandType := statusBit st Config.commandTypeBit
  blocked := statusBit st Config.blockedBit
  blockingMode := statusBit st Config.blockingModeBit
  color := st.extractLsb' 0 3

/-- The status byte of a controlled-motor record (30 R68), bits 7:2 zero (30 R75). -/
def packControlledStatus (r : Controlled) : Byte :=
  placeBit r.finished Config.finishedBit ||| placeBit r.newCommand Config.newCommandBit

/-- A controlled-motor slot from a record's fields and its status byte (30 R68); bits 7:2 are ignored (30 R75). -/
def unpackControlled (id angle turns st : Byte) : Controlled where
  id := id
  wantedAngle := angle
  wantedNbTurns := turns
  finished := statusBit st Config.finishedBit
  newCommand := statusBit st Config.newCommandBit

/-- The status byte of an uncontrolled-motor record (30 R69), bits 7:2 zero (30 R75). -/
def packUncontrolledStatus (r : Uncontrolled) : Byte :=
  placeBit r.onOff Config.onOffBit ||| placeBit r.rotation Config.rotationBit

/-- An uncontrolled-motor slot from its identifier and its status byte (30 R69); bits 7:2 are ignored (30 R75). -/
def unpackUncontrolled (id st : Byte) : Uncontrolled where
  id := id
  onOff := statusBit st Config.onOffBit
  rotation := statusBit st Config.rotationBit

/-- `servo_size(N) = 1 + 6N`, exact (30 R66, 00 R6). -/
def servoFrameSize (n : Nat) : Nat := Config.servoHeaderSize + Config.servoRecordSize * n

/-- `motor_size(c, u, b) = 3 + 4c + 2u + 2b`, exact (30 R71, 00 R6). -/
def motorFrameSize (c u b : Nat) : Nat :=
  Config.motorHeaderSize + Config.controlledRecordSize * c + Config.uncontrolledRecordSize * u +
    Config.brushlessRecordSize * b

/-- How many slots are populated, that is, have an identifier greater than 0 (00 R3). -/
def populatedCount {α : Type} (ident : α → Byte) (slots : List α) : Nat :=
  slots.countP fun r => ident r != 0

/-- An array of slots: record `k` in slot `k`, every other slot `empty` (40 R101 lines 5, 6, 13; 41 R121 lines 5 to 8,
14, 24, 31; D10, D11). -/
def fillSlots {α : Type} (n : Nat) (empty : α) (records : List α) : Vector α n :=
  Vector.ofFn fun i => records.getD i.val empty

end Sys2Proof.Machine
end

