-- ==== Sys2Proof/Machine/Flags.lean ====
section
/-! DEFINITION. The flags (spec 10 R26): the five `parsing_failed` bits, each written by its own READ and by nothing
else. A decode that fails sets the flag and leaves every other field of the group UNSPEC (60 R161, D26); one that
succeeds clears it. UNSPEC fields are free values, one independent value a field (93 U1; log 2). -/

namespace Sys2Proof.Machine

/-- Seven free fields of a servo slot (93 U1). -/
def unspecServo (draw i : Nat) : Servo where
  id := Config.unspec 8 draw (7 * i)
  position := Config.unspec 16 draw (7 * i + 1)
  command := Config.unspec 16 draw (7 * i + 2)
  commandType := Config.unspec 1 draw (7 * i + 3)
  blocked := Config.unspec 1 draw (7 * i + 4)
  blockingMode := Config.unspec 1 draw (7 * i + 5)
  color := Config.unspec 3 draw (7 * i + 6)

/-- Five free fields of a controlled-motor slot (93 U1). -/
def unspecControlled (draw i : Nat) : Controlled where
  id := Config.unspec 8 draw (5 * i)
  wantedAngle := Config.unspec 8 draw (5 * i + 1)
  wantedNbTurns := Config.unspec 8 draw (5 * i + 2)
  finished := Config.unspec 1 draw (5 * i + 3)
  newCommand := Config.unspec 1 draw (5 * i + 4)

/-- Three free fields of an uncontrolled-motor slot (93 U1); the numbers go on from the controlled slots'. -/
def unspecUncontrolled (draw i : Nat) : Uncontrolled where
  id := Config.unspec 8 draw (40 + 3 * i)
  onOff := Config.unspec 1 draw (40 + 3 * i + 1)
  rotation := Config.unspec 1 draw (40 + 3 * i + 2)

/-- Two free fields of a brushless slot (93 U1); the numbers go on from the uncontrolled slots'. -/
def unspecBrushless (draw i : Nat) : Brushless where
  id := Config.unspec 8 draw (64 + 2 * i)
  onOff := Config.unspec 8 draw (64 + 2 * i + 1)

/-- The `fail` clause of `SERVO_READ` (40 R101 lines 24, 25): the flag is 1, all eight slots and `nb_servos` are UNSPEC. -/
def servoReadFails (s : State) : State :=
  (s.setServo {
    servos := Vector.ofFn fun i => unspecServo s.draws i.val
    nbServos := Config.unspec 8 s.draws 56
    parsingFailed := true }).nextDraw

/-- The `fail` clause of `MOTOR_READ` (41 R121 lines 39, 40): the flag is 1, all 24 slots are UNSPEC. -/
def motorReadFails (s : State) : State :=
  (s.setMotor {
    controlled := Vector.ofFn fun i => unspecControlled s.draws i.val
    uncontrolled := Vector.ofFn fun i => unspecUncontrolled s.draws i.val
    brushless := Vector.ofFn fun i => unspecBrushless s.draws i.val
    parsingFailed := true }).nextDraw

/-- The failure branch of `IO_READ` (42 R140 lines 2, 3): the flag is 1, `tirette` is UNSPEC. -/
def ioReadFails (s : State) : State :=
  (s.setIo { tirette := Config.unspec 8 s.draws 0, parsingFailed := true }).nextDraw

/-- The success clause of `SERVO_READ` (40 R101 lines 21 to 23): the records in slots 0 up, `nb_servos` the declared
count, the flag 0. -/
def servoReadSucceeds (s : State) (n : Byte) (records : List Servo) : State :=
  s.setServo {
    servos := fillSlots Config.maxServos Servo.empty records
    nbServos := n
    parsingFailed := false }

/-- The success clause of `MOTOR_READ` (41 R121 lines 35 to 38). -/
def motorReadSucceeds (s : State) (cs : List Controlled) (us : List Uncontrolled) (bs : List Brushless) : State :=
  s.setMotor {
    controlled := fillSlots Config.maxControlled Controlled.empty cs
    uncontrolled := fillSlots Config.maxUncontrolled Uncontrolled.empty us
    brushless := fillSlots Config.maxBrushless Brushless.empty bs
    parsingFailed := false }

/-- The success branch of `IO_READ` (42 R140 lines 5, 6): the byte verbatim, the flag 0 (C8). -/
def ioReadSucceeds (s : State) (v : Byte) : State := s.setIo { tirette := v, parsingFailed := false }

/-- `AVOID.parsing_failed <- 1` (43 R150). -/
def avoidReadFails (s : State) : State := s.setAvoid { parsingFailed := true }

/-- `MOVING.parsing_failed <- 1` (43 R152). -/
def movingReadFails (s : State) : State := s.setMoving { parsingFailed := true }

end Sys2Proof.Machine
end

