-- ==== Sys2Proof/Machine/Ops.lean ====
section
/-! DEFINITION. The named operations over the frame buffer (spec 20) and the records of a frame (30 Part A), shared by
the READ and WRITE meanings. The block has no exceptions (60 R160, R169): a failed READ is `Flags.lean`'s, a failed
WRITE is `writeFails`, both ordinary next states. -/

namespace Sys2Proof.Machine

/-- The byte written at index `a` since reset, if there is one. -/
def Memory.lookup : Memory → Nat → Option Byte
  | [], _ => none
  | c :: m, a => if c.1 = a then some c.2 else Memory.lookup m a

/-- Byte `v` written at index `a`, the list kept strictly rising. -/
def Memory.insert : Memory → Nat → Byte → Memory
  | [], a, v => [(a, v)]
  | c :: m, a, v =>
    if a < c.1 then (a, v) :: c :: m
    else if a = c.1 then (a, v) :: m
    else c :: Memory.insert m a v

/-- The canonical form: indices strictly rising. (An index that is not listed holds no written byte, so no entry can
equal what an unlisted index holds; log 3.) -/
def Memory.wf : Memory → Bool
  | [] => true
  | c :: m => m.all (fun d => decide (c.1 < d.1)) && Memory.wf m

/-- `FB[a]`: the byte written there since reset, or else the free value the reset left there (70 R181, 93 U2; log 3). -/
def State.fbByte (s : State) (a : Nat) : Byte := (Memory.lookup s.fb a).getD (Config.unspec 8 s.fbDraw a)

/-- `MemRead(a, 1)` (20 R42), defined only for `a < FB_SIZE`. -/
def memRead1 (s : State) (a : Nat) : Except Fault Byte :=
  if a < Config.fbSize then .ok (s.fbByte a) else .error (.outsideFrameBuffer a)

/-- `MemRead(a, 2)`, big-endian (20 R43). -/
def memRead2 (s : State) (a : Nat) : Except Fault Half := do
  let hi ← memRead1 s a
  let lo ← memRead1 s (a + 1)
  return bigEndian hi lo

/-- `MemWrite(a, 1, v)` (20 R42), defined only for `a < FB_SIZE`. -/
def memWrite1 (s : State) (a : Nat) (v : Byte) : Except Fault State :=
  if a < Config.fbSize then .ok (s.setFb (Memory.insert s.fb a v)) else .error (.outsideFrameBuffer a)

/-- `MemWrite(a, 2, v)`, big-endian (20 R44). -/
def memWrite2 (s : State) (a : Nat) (v : Half) : Except Fault State := do
  let s ← memWrite1 s a (highByte v)
  memWrite1 s (a + 1) (lowByte v)

/-- Bytes at `a`, `a + 1`, and so on (30 R89 `HOST FB[a..] <- b0 b1 ...`). -/
def memWriteBytes (s : State) (a : Nat) : List Byte → Except Fault State
  | [] => .ok s
  | v :: rest => do
    let s ← memWrite1 s a v
    memWriteBytes s (a + 1) rest

/-- How the records of one section of a frame are laid out: the record's size, the slot's identifier, and the record
read from and written at an index of `FB`. -/
structure RecordCodec (α : Type) where
  size : Nat
  ident : α → Byte
  load : State → Nat → Except Fault α
  store : State → Nat → α → Except Fault State

/-- The servo record at `base` (30 R61; 40 R101 lines 12 to 19). -/
def loadServo (s : State) (base : Nat) : Except Fault Servo := do
  let id ← memRead1 s base
  let position ← memRead2 s (base + 1)
  let command ← memRead2 s (base + 3)
  let st ← memRead1 s (base + 5)
  return unpackServo id position command st

/-- A servo record written at `p` (40 R103 lines 11 to 14). -/
def storeServo (s : State) (p : Nat) (r : Servo) : Except Fault State := do
  let s ← memWrite1 s p r.id
  let s ← memWrite2 s (p + 1) r.position
  let s ← memWrite2 s (p + 3) r.command
  memWrite1 s (p + 5) (packServoStatus r)

/-- The servo section of a servo frame (30 R61). -/
def servoRecords : RecordCodec Servo where
  size := Config.servoRecordSize
  ident := Servo.id
  load := loadServo
  store := storeServo

/-- The controlled-motor record at `p` (30 R68; 41 R121 lines 13 to 18). -/
def loadControlled (s : State) (p : Nat) : Except Fault Controlled := do
  let id ← memRead1 s p
  let angle ← memRead1 s (p + 1)
  let turns ← memRead1 s (p + 2)
  let st ← memRead1 s (p + 3)
  return unpackControlled id angle turns st

/-- A controlled-motor record written at `p` (41 R123 lines 14 to 17). -/
def storeControlled (s : State) (p : Nat) (r : Controlled) : Except Fault State := do
  let s ← memWrite1 s p r.id
  let s ← memWrite1 s (p + 1) r.wantedAngle
  let s ← memWrite1 s (p + 2) r.wantedNbTurns
  memWrite1 s (p + 3) (packControlledStatus r)

/-- The controlled section of a motor frame (30 R67, R68). -/
def controlledRecords : RecordCodec Controlled where
  size := Config.controlledRecordSize
  ident := Controlled.id
  load := loadControlled
  store := storeControlled

/-- The uncontrolled-motor record at `p` (30 R69; 41 R121 lines 23 to 26). -/
def loadUncontrolled (s : State) (p : Nat) : Except Fault Uncontrolled := do
  let id ← memRead1 s p
  let st ← memRead1 s (p + 1)
  return unpackUncontrolled id st

/-- An uncontrolled-motor record written at `p` (41 R123 lines 22, 23). -/
def storeUncontrolled (s : State) (p : Nat) (r : Uncontrolled) : Except Fault State := do
  let s ← memWrite1 s p r.id
  memWrite1 s (p + 1) (packUncontrolledStatus r)

/-- The uncontrolled section of a motor frame (30 R67, R69). -/
def uncontrolledRecords : RecordCodec Uncontrolled where
  size := Config.uncontrolledRecordSize
  ident := Uncontrolled.id
  load := loadUncontrolled
  store := storeUncontrolled

/-- The brushless record at `p`, its on/off byte whole (30 R70; 41 R121 lines 31, 32). -/
def loadBrushless (s : State) (p : Nat) : Except Fault Brushless := do
  let id ← memRead1 s p
  let onOff ← memRead1 s (p + 1)
  return ⟨id, onOff⟩

/-- A brushless record written at `p`, its on/off byte whole (41 R123 lines 28, 29). -/
def storeBrushless (s : State) (p : Nat) (r : Brushless) : Except Fault State := do
  let s ← memWrite1 s p r.id
  memWrite1 s (p + 1) r.onOff

/-- The brushless section of a motor frame (30 R67, R70). -/
def brushlessRecords : RecordCodec Brushless where
  size := Config.brushlessRecordSize
  ident := Brushless.id
  load := loadBrushless
  store := storeBrushless

/-- The loop over the records of a section: `n` records from `base`, `placed` those already taken (40 R101 lines 7 to
19; 41 R121 lines 10 to 33). `none` is `fail`: an identifier of 0, or, where `unique` asks for it (servo only), one
that an earlier record of the frame has. Both are tested before the record's other bytes are used (60 R165). -/
def readRecords {α : Type} (c : RecordCodec α) (unique : Bool) (s : State) :
    Nat → Nat → List α → Except Fault (Option (List α))
  | 0, _, placed => .ok (some placed)
  | n + 1, base, placed => do
    let id ← memRead1 s base
    if id = 0 then
      .ok none
    else if unique && placed.any (fun r => c.ident r == id) then
      .ok none
    else do
      let r ← c.load s base
      readRecords c unique s n (base + c.size) (placed ++ [r])

/-- The loop over the slots of an array: each populated slot is written at `p` and moves `p` on, an empty one is
skipped (40 R103 lines 8 to 15; 41 R123 lines 11 to 30; D12). Answers the state and the final `p`. -/
def storeRecords {α : Type} (c : RecordCodec α) : List α → State → Nat → Except Fault (State × Nat)
  | [], s, p => .ok (s, p)
  | r :: rest, s, p =>
    if c.ident r = 0 then
      storeRecords c rest s p
    else do
      let s ← c.store s p r
      storeRecords c rest s (p + c.size)

/-- A natural number into `RET`; no command writes one that does not fit (10 R22). -/
def setRetNat (s : State) (n : Nat) : State := s.setRet (BitVec.ofNat 16 n)

/-- A WRITE that does not write: `RET <- 0`, no byte of `FB` changed (60 R163, 20 R50). -/
def writeFails (s : State) : State := setRetNat s 0

/-- The outcome of a computation over the frame buffer: the next state, or the fault it met. -/
def outcome (r : Except Fault State) : Host.Outcome State Fault Refusal :=
  match r with
  | .ok s => .next s
  | .error f => .fault f

end Sys2Proof.Machine
end

