-- ==== Sys2Proof/Machine/Io.lean ====
section
/-! DEFINITION. The IO operations (spec 42). -/

namespace Sys2Proof.Machine

/-- `IO_READ` (42 R140): byte 0 verbatim, whatever `LEN` is beyond 1 (C4). -/
def execIoRead (src : Bool) (len : Nat) (s : State) : Host.Outcome State Fault Refusal :=
  outcome <|
    if src = false ∨ len = 0 then
      .ok (ioReadFails s)
    else do
      let v ← memRead1 s 0
      return ioReadSucceeds s v

/-- `IO_WRITE` (42 R141). -/
def execIoWrite (dst obj : Bool) (cap : Nat) (s : State) : Host.Outcome State Fault Refusal :=
  outcome <|
    if dst = false ∨ obj = false ∨ cap = 0 then
      .ok (writeFails s)
    else do
      let t ← memWrite1 s 0 s.io.tirette
      return setRetNat t Config.ioFrameSize

/-- `IO_SIZE` (42 R142). -/
def execIoSize (s : State) : Host.Outcome State Fault Refusal :=
  .next (setRetNat s Config.ioFrameSize)

end Sys2Proof.Machine
end

