-- ==== Sys2Proof/Machine/Motor.lean ====
section
/-! DEFINITION. The motor operations (spec 41). -/

namespace Sys2Proof.Machine

/-- The three sections of a motor frame, one after the other from byte 3 (41 R121 lines 9 to 33); `none` is `fail`. -/
def readMotorSections (s : State) (c u b : Nat) :
    Except Fault (Option (List Controlled × List Uncontrolled × List Brushless)) := do
  let atControlled := Config.motorHeaderSize
  let atUncontrolled := atControlled + Config.controlledRecordSize * c
  let atBrushless := atUncontrolled + Config.uncontrolledRecordSize * u
  match ← readRecords controlledRecords false s c atControlled [] with
  | none => .ok none
  | some cs =>
    match ← readRecords uncontrolledRecords false s u atUncontrolled [] with
    | none => .ok none
    | some us =>
      match ← readRecords brushlessRecords false s b atBrushless [] with
      | none => .ok none
      | some bs => .ok (some (cs, us, bs))

/-- `MOTOR_READ` (41 R121), in the order of checks of 60 R165. No duplicate check in any section (C2, C3). -/
def execMotorRead (src : Bool) (len : Nat) (s : State) : Host.Outcome State Fault Refusal :=
  outcome <|
    if src = false ∨ len < Config.motorHeaderSize then
      .ok (motorReadFails s)
    else do
      let c ← memRead1 s 0
      let u ← memRead1 s 1
      let b ← memRead1 s 2
      if len ≠ motorFrameSize c.toNat u.toNat b.toNat then
        .ok (motorReadFails s)
      else if Config.maxControlled < c.toNat ∨ Config.maxUncontrolled < u.toNat ∨ Config.maxBrushless < b.toNat then
        .ok (motorReadFails s)
      else do
        let sections ← readMotorSections s c.toNat u.toNat b.toNat
        match sections with
        | none => .ok (motorReadFails s)
        | some (cs, us, bs) => .ok (motorReadSucceeds s cs us bs)

/-- `MOTOR_WRITE` (41 R123): counts and records both from a scan of all the slots. -/
def execMotorWrite (dst obj : Bool) (cap : Nat) (s : State) : Host.Outcome State Fault Refusal :=
  outcome <|
    if dst = false ∨ obj = false ∨ cap = 0 then
      .ok (writeFails s)
    else
      let cs := s.motor.controlled.toList
      let us := s.motor.uncontrolled.toList
      let bs := s.motor.brushless.toList
      let mc := populatedCount Controlled.id cs
      let mu := populatedCount Uncontrolled.id us
      let mb := populatedCount Brushless.id bs
      let need := motorFrameSize mc mu mb
      if cap < need then
        .ok (writeFails s)
      else do
        let t ← memWrite1 s 0 (BitVec.ofNat 8 mc)
        let t ← memWrite1 t 1 (BitVec.ofNat 8 mu)
        let t ← memWrite1 t 2 (BitVec.ofNat 8 mb)
        let out ← storeRecords controlledRecords cs t Config.motorHeaderSize
        let out ← storeRecords uncontrolledRecords us out.1 out.2
        let out ← storeRecords brushlessRecords bs out.1 out.2
        return setRetNat out.1 need

/-- `MOTOR_SIZE` (41 R125). -/
def execMotorSize (c u b : Nat) (s : State) : Host.Outcome State Fault Refusal :=
  .next (setRetNat s (motorFrameSize c u b))

end Sys2Proof.Machine
end

