-- ==== Sys2Proof/Machine/Servo.lean ====
section
/-! DEFINITION. The servo operations (spec 40). -/

namespace Sys2Proof.Machine

/-- `SERVO_READ` (40 R101), in the order of checks of 60 R165. -/
def execServoRead (src : Bool) (len : Nat) (s : State) : Host.Outcome State Fault Refusal :=
  outcome <|
    if src = false ∨ len = 0 then
      .ok (servoReadFails s)
    else do
      let n ← memRead1 s 0
      if len ≠ servoFrameSize n.toNat then
        .ok (servoReadFails s)
      else if Config.maxServos < n.toNat then
        .ok (servoReadFails s)
      else do
        let records ← readRecords servoRecords true s n.toNat Config.servoHeaderSize []
        match records with
        | none => .ok (servoReadFails s)
        | some rs => .ok (servoReadSucceeds s n rs)

/-- `SERVO_WRITE` (40 R103): the count byte counts all eight slots, the records come from the first
`min(nb_servos, 8)` (C1, D15). -/
def execServoWrite (dst obj : Bool) (cap : Nat) (s : State) : Host.Outcome State Fault Refusal :=
  outcome <|
    if dst = false ∨ obj = false ∨ cap = 0 then
      .ok (writeFails s)
    else
      let slots := s.servo.servos.toList
      let m := populatedCount Servo.id slots
      if cap < servoFrameSize m then
        .ok (writeFails s)
      else do
        let t ← memWrite1 s 0 (BitVec.ofNat 8 m)
        let out ← storeRecords servoRecords (slots.take (min s.servo.nbServos.toNat Config.maxServos)) t
          Config.servoHeaderSize
        return setRetNat out.1 out.2

/-- `SERVO_SIZE` (40 R105). -/
def execServoSize (n : Nat) (s : State) : Host.Outcome State Fault Refusal :=
  .next (setRetNat s (servoFrameSize n))

end Sys2Proof.Machine
end

