-- ==== Sys2Proof/Machine/Stubs.lean ====
section
/-! DEFINITION. The placeholder operations (spec 43): they always fail, whatever their operands and whatever `FB`
holds, and must not be given a format (43 R155). -/

namespace Sys2Proof.Machine

/-- `AVOID_READ` (43 R150); the operands are ignored. -/
def execAvoidRead (_src : Bool) (_len : Nat) (s : State) : Host.Outcome State Fault Refusal :=
  .next (avoidReadFails s)

/-- `AVOID_WRITE` (43 R151); the operands are ignored. -/
def execAvoidWrite (_dst _obj : Bool) (_cap : Nat) (s : State) : Host.Outcome State Fault Refusal :=
  .next (writeFails s)

/-- `MOVING_READ` (43 R152); the operands are ignored. -/
def execMovingRead (_src : Bool) (_len : Nat) (s : State) : Host.Outcome State Fault Refusal :=
  .next (movingReadFails s)

/-- `MOVING_WRITE` (43 R153); the operands are ignored. -/
def execMovingWrite (_dst _obj : Bool) (_cap : Nat) (s : State) : Host.Outcome State Fault Refusal :=
  .next (writeFails s)

end Sys2Proof.Machine
end

