-- ==== Sys2Proof/Machine/Dispatch.lean ====
section
/-! DEFINITION. One arm per operation (spec 30 R80), each one call of its meaning. -/

namespace Sys2Proof.Machine

def exec (i : Instr) (s : State) : Host.Outcome State Fault Refusal :=
  match i with
  | .servoRead src len => Sys2Proof.Machine.execServoRead src len s
  | .servoWrite dst obj cap => Sys2Proof.Machine.execServoWrite dst obj cap s
  | .servoSize n => Sys2Proof.Machine.execServoSize n s
  | .motorRead src len => Sys2Proof.Machine.execMotorRead src len s
  | .motorWrite dst obj cap => Sys2Proof.Machine.execMotorWrite dst obj cap s
  | .motorSize c u b => Sys2Proof.Machine.execMotorSize c u b s
  | .ioRead src len => Sys2Proof.Machine.execIoRead src len s
  | .ioWrite dst obj cap => Sys2Proof.Machine.execIoWrite dst obj cap s
  | .ioSize => Sys2Proof.Machine.execIoSize s
  | .avoidRead src len => Sys2Proof.Machine.execAvoidRead src len s
  | .avoidWrite dst obj cap => Sys2Proof.Machine.execAvoidWrite dst obj cap s
  | .movingRead src len => Sys2Proof.Machine.execMovingRead src len s
  | .movingWrite dst obj cap => Sys2Proof.Machine.execMovingWrite dst obj cap s

end Sys2Proof.Machine
end

