-- ==== Sys2Proof/Machine/HostAccess.lean ====
section
/-! DEFINITION. What the host does between commands (spec 10 R29, 30 R89): plain loads and stores of every register
field and every byte of `FB`, unchecked but for the width of the field, branches on the values it reads, and the reset
(70 R180, R181). -/

namespace Sys2Proof.Machine

/-- A one-bit register's value as a number. -/
def flagValue (b : Bool) : Nat := if b then 1 else 0

/-- A number truncated to one bit (10 R29). -/
def flagOf (v : Nat) : Bool := v % 2 = 1

/-- A field of a servo slot (10 R12). -/
def Servo.get (r : Servo) : ServoField → Nat
  | .id => r.id.toNat
  | .position => r.position.toNat
  | .command => r.command.toNat
  | .commandType => r.commandType.toNat
  | .blocked => r.blocked.toNat
  | .blockingMode => r.blockingMode.toNat
  | .color => r.color.toNat

/-- A field of a servo slot stored, truncated to its width (10 R29). -/
def Servo.put (r : Servo) (f : ServoField) (v : Nat) : Servo :=
  match f with
  | .id => { r with id := BitVec.ofNat 8 v }
  | .position => { r with position := BitVec.ofNat 16 v }
  | .command => { r with command := BitVec.ofNat 16 v }
  | .commandType => { r with commandType := BitVec.ofNat 1 v }
  | .blocked => { r with blocked := BitVec.ofNat 1 v }
  | .blockingMode => { r with blockingMode := BitVec.ofNat 1 v }
  | .color => { r with color := BitVec.ofNat 3 v }

/-- A field of a controlled-motor slot (10 R16). -/
def Controlled.get (r : Controlled) : ControlledField → Nat
  | .id => r.id.toNat
  | .wantedAngle => r.wantedAngle.toNat
  | .wantedNbTurns => r.wantedNbTurns.toNat
  | .finished => r.finished.toNat
  | .newCommand => r.newCommand.toNat

/-- A field of a controlled-motor slot stored, truncated to its width (10 R29). -/
def Controlled.put (r : Controlled) (f : ControlledField) (v : Nat) : Controlled :=
  match f with
  | .id => { r with id := BitVec.ofNat 8 v }
  | .wantedAngle => { r with wantedAngle := BitVec.ofNat 8 v }
  | .wantedNbTurns => { r with wantedNbTurns := BitVec.ofNat 8 v }
  | .finished => { r with finished := BitVec.ofNat 1 v }
  | .newCommand => { r with newCommand := BitVec.ofNat 1 v }

/-- A field of an uncontrolled-motor slot (10 R17). -/
def Uncontrolled.get (r : Uncontrolled) : UncontrolledField → Nat
  | .id => r.id.toNat
  | .onOff => r.onOff.toNat
  | .rotation => r.rotation.toNat

/-- A field of an uncontrolled-motor slot stored, truncated to its width (10 R29). -/
def Uncontrolled.put (r : Uncontrolled) (f : UncontrolledField) (v : Nat) : Uncontrolled :=
  match f with
  | .id => { r with id := BitVec.ofNat 8 v }
  | .onOff => { r with onOff := BitVec.ofNat 1 v }
  | .rotation => { r with rotation := BitVec.ofNat 1 v }

/-- A field of a brushless slot (10 R18). -/
def Brushless.get (r : Brushless) : BrushlessField → Nat
  | .id => r.id.toNat
  | .onOff => r.onOff.toNat

/-- A field of a brushless slot stored, truncated to its width (10 R29). -/
def Brushless.put (r : Brushless) (f : BrushlessField) (v : Nat) : Brushless :=
  match f with
  | .id => { r with id := BitVec.ofNat 8 v }
  | .onOff => { r with onOff := BitVec.ofNat 8 v }

/-- `HOST read <register field>` (10 R29, 30 R89). -/
def readReg (s : State) : Reg → Nat
  | .servo i f => s.servo.servos[i].get f
  | .nbServos => s.servo.nbServos.toNat
  | .servoParsingFailed => flagValue s.servo.parsingFailed
  | .controlled i f => s.motor.controlled[i].get f
  | .uncontrolled i f => s.motor.uncontrolled[i].get f
  | .brushless i f => s.motor.brushless[i].get f
  | .motorParsingFailed => flagValue s.motor.parsingFailed
  | .tirette => s.io.tirette.toNat
  | .ioParsingFailed => flagValue s.io.parsingFailed
  | .avoidParsingFailed => flagValue s.avoid.parsingFailed
  | .movingParsingFailed => flagValue s.moving.parsingFailed
  | .ret => s.ret.toNat

/-- `HOST <register field> <- value` (10 R29, 30 R89): the value truncated to the field's width, nothing checked and
nothing else changed (10 R13, R25). -/
def writeReg (s : State) (r : Reg) (v : Nat) : State :=
  match r with
  | .servo i f => s.setServo { s.servo with servos := s.servo.servos.set i (s.servo.servos[i].put f v) }
  | .nbServos => s.setServo { s.servo with nbServos := BitVec.ofNat 8 v }
  | .servoParsingFailed => s.setServo { s.servo with parsingFailed := flagOf v }
  | .controlled i f => s.setMotor { s.motor with controlled := s.motor.controlled.set i (s.motor.controlled[i].put f v) }
  | .uncontrolled i f =>
    s.setMotor { s.motor with uncontrolled := s.motor.uncontrolled.set i (s.motor.uncontrolled[i].put f v) }
  | .brushless i f => s.setMotor { s.motor with brushless := s.motor.brushless.set i (s.motor.brushless[i].put f v) }
  | .motorParsingFailed => s.setMotor { s.motor with parsingFailed := flagOf v }
  | .tirette => s.setIo { s.io with tirette := BitVec.ofNat 8 v }
  | .ioParsingFailed => s.setIo { s.io with parsingFailed := flagOf v }
  | .avoidParsingFailed => s.setAvoid { parsingFailed := flagOf v }
  | .movingParsingFailed => s.setMoving { parsingFailed := flagOf v }
  | .ret => setRetNat s v

/-- What the host reads at a place: a register field, or a byte of `FB` (10 R29). -/
def hostRead (s : State) : HostPlace → Except Fault Nat
  | .reg r => .ok (readReg s r)
  | .byte a => do
    let v ← memRead1 s a
    return v.toNat

/-- The answer of a host test (30 R89). -/
def hostTest (s : State) : HostTest → Except Fault Bool
  | .equals p v => do
    let x ← hostRead s p
    return decide (x = v)
  | .below p v => do
    let x ← hostRead s p
    return decide (x < v)

/-- The reset (70 R180, R181): every register at its value of 10 R31, every byte of `FB` a new free value (93 U2; log
3). What the host does next is not the block's, so it stays. -/
def resetBlock (s : State) : State :=
  { State.reset with fbDraw := s.draws, draws := s.draws + 1, host := s.host }

end Sys2Proof.Machine
end

