-- ==== Sys2Proof/Machine/Events.lean ====
section
/-! DEFINITION. The events a step takes: a command word or an action of the host (spec 00 R4, 10 R29, 30 R89; log 1). -/

namespace Sys2Proof.Machine

/-- The host presents a command word: the operation it selects runs as one atomic step (00 R4, 30 R85); a reserved word
is refused by name (30 R86, 93 U3). -/
def takeCommand (w : CmdWord) (s : State) : Host.Outcome State Fault Refusal :=
  match decode w with
  | .ok i => exec i s
  | .error why => .refused (.reservedCommand why w)

/-- One action of the host (30 R89). -/
def takeAction (a : HostAction) (s : State) : Host.Outcome State Fault Refusal :=
  match a with
  | .command w => takeCommand w s
  | .storeBytes first bytes => outcome (memWriteBytes s first bytes)
  | .storeReg r v => .next (writeReg s r v)
  | .read p => outcome (do let _ ← hostRead s p; return s)
  | .reset => .next (resetBlock s)

/-- The host goes on with one of the two branches, by the value it reads (30 R89, 60 R173). -/
def takeBranch (t : HostTest) (yes no : HostScript) (s : State) : Host.Outcome State Fault Refusal :=
  outcome (do let b ← hostTest s t; return s.setHost (if b then yes else no))

/-- The next event of the host's script. The script moves on before the action runs. With nothing left to do the block
is idle, which has no effect (60 R172; log 1). -/
def takeEvent (s : State) : Host.Outcome State Fault Refusal :=
  match s.host with
  | .done => .next s
  | .act a rest => takeAction a (s.setHost rest)
  | .branch t yes no => takeBranch t yes no s

end Sys2Proof.Machine
end

