-- ==== Sys2Proof/Machine/Step.lean ====
section
/-! DEFINITION. One step: the next event of the host's script, a command or a host action (spec 00 R4, 10 R29, 20 R47;
log 1). -/

namespace Sys2Proof.Machine

/-- One step (00 R4): everything a step does is `takeEvent`'s. -/
def step (s : State) : Host.Outcome State Fault Refusal := takeEvent s

/-- The instruction whose bits are `w`, in the opcode table's numbering, presented by the host as its next command, so
that the very next step runs it; what the host was going to do comes after (log 1, log 10). -/
def State.withFetchWord (s : State) (nbits w : Nat) : State :=
  s.setHost (.act (.command (tableWord nbits w)) s.host)

end Sys2Proof.Machine
end

