-- ==== Sys2Proof/Safety.lean ====
section
/-! DEFINITION. The terms claims are stated in: the invariant of the model, the frames of spec 30 Part A said of the
bytes of `FB` and of the register groups without the loops of the meanings, and the host's disciplines of 40 R104 and
R106. -/

namespace Sys2Proof

/-- The READ operations (30 R82). -/
def Instr.isRead : Instr → Bool
  | .servoRead _ _ => true
  | .motorRead _ _ => true
  | .ioRead _ _ => true
  | .avoidRead _ _ => true
  | .movingRead _ _ => true
  | .servoWrite _ _ _ => false
  | .servoSize _ => false
  | .motorWrite _ _ _ => false
  | .motorSize _ _ _ => false
  | .ioWrite _ _ _ => false
  | .ioSize => false
  | .avoidWrite _ _ _ => false
  | .movingWrite _ _ _ => false

/-- The `CAP` of a WRITE operation (30 R83). -/
def Instr.capacity : Instr → Option Nat
  | .servoWrite _ _ cap => some cap
  | .motorWrite _ _ cap => some cap
  | .ioWrite _ _ cap => some cap
  | .avoidWrite _ _ cap => some cap
  | .movingWrite _ _ cap => some cap
  | .servoRead _ _ => none
  | .servoSize _ => none
  | .motorRead _ _ => none
  | .motorSize _ _ _ => none
  | .ioRead _ _ => none
  | .ioSize => none
  | .avoidRead _ _ => none
  | .movingRead _ _ => none

/-- The place is byte `a` of `FB` (10 R29). -/
def HostPlace.namesByte : HostPlace → Nat → Prop
  | .reg _, _ => False
  | .byte b, a => b = a

/-- The test reads byte `a` of `FB`. -/
def HostTest.namesByte : HostTest → Nat → Prop
  | .equals p _, a => p.namesByte a
  | .below p _, a => p.namesByte a

/-- The host action itself stores to or reads byte `a` of `FB` (30 R89). -/
def HostAction.namesByte : HostAction → Nat → Prop
  | .command _, _ => False
  | .storeBytes first bytes, a => first ≤ a ∧ a < first + bytes.length
  | .storeReg _ _, _ => False
  | .read p, a => p.namesByte a
  | .reset, _ => False

end Sys2Proof

namespace Sys2Proof.Machine

/-- The state's invariant: `FB` is in canonical form and lists only bytes that exist, and the draw its unwritten bytes
come from has been used up, so that no later free value shares it (log 2, log 3). -/
def State.Inv (s : State) : Prop :=
  Memory.wf s.fb = true ∧ (∀ c ∈ s.fb, c.1 < Config.fbSize) ∧ s.fbDraw < s.draws

/-- The state `k` steps of the machine lead to, if none of them stops. -/
def SafeRun (k : Nat) (s t : State) : Prop := Sys2Proof.core.run k s = .next t

/-- The flags (10 R26). -/
def isFlag : Reg → Bool
  | .servoParsingFailed => true
  | .motorParsingFailed => true
  | .ioParsingFailed => true
  | .avoidParsingFailed => true
  | .movingParsingFailed => true
  | .servo _ _ => false
  | .nbServos => false
  | .controlled _ _ => false
  | .uncontrolled _ _ => false
  | .brushless _ _ => false
  | .tirette => false
  | .ret => false

/-- The flags of `u` in the place of those of `s` (10 R26). -/
def State.withFlagsOf (s u : State) : State :=
  { s with
    servo := { s.servo with parsingFailed := u.servo.parsingFailed }
    motor := { s.motor with parsingFailed := u.motor.parsingFailed }
    io := { s.io with parsingFailed := u.io.parsingFailed }
    avoid := u.avoid
    moving := u.moving }

/-- The two states hold the same byte at every index of `FB` below `n`. -/
def AgreeBelow (n : Nat) (s t : State) : Prop := ∀ a, a < n → s.fbByte a = t.fbByte a

/-- From `s` to `t` exactly the bytes `FB[0 .. frame.length - 1]` were written, with `frame` (20 R50). -/
def FrameStored (s t : State) (frame : List Byte) : Prop :=
  ∀ a, t.fbByte a = if h : a < frame.length then frame[a] else s.fbByte a

/-- The frame in `FB`, record by record (30 R61): record `k` of a servo frame. -/
def servoRecordAt (s : State) (k : Nat) : Servo :=
  unpackServo (s.fbByte (1 + 6 * k)) (bigEndian (s.fbByte (1 + 6 * k + 1)) (s.fbByte (1 + 6 * k + 2)))
    (bigEndian (s.fbByte (1 + 6 * k + 3)) (s.fbByte (1 + 6 * k + 4))) (s.fbByte (1 + 6 * k + 5))

/-- The first `len` bytes of `FB` are a valid servo frame: conditions (a) to (e) of 30 R65. -/
def ValidServoFrame (s : State) (len : Nat) : Prop :=
  let n := (s.fbByte 0).toNat
  1 ≤ len ∧ len = 1 + 6 * n ∧ n ≤ 8 ∧ (∀ k, k < n → (servoRecordAt s k).id ≠ 0) ∧
    (∀ k, k < n → ∀ j, j < k → (servoRecordAt s j).id ≠ (servoRecordAt s k).id)

/-- The `SERVO` group that decoding the frame in `FB` gives (40 R101, R102): records in frame order from slot 0, every
other slot all-zero. -/
def decodedServos (s : State) : ServoGroup where
  servos := Vector.ofFn fun i => if i.val < (s.fbByte 0).toNat then servoRecordAt s i.val else Servo.empty
  nbServos := s.fbByte 0
  parsingFailed := false

/-- The controlled record at index `p` of `FB` (30 R68). -/
def controlledAt (s : State) (p : Nat) : Controlled :=
  unpackControlled (s.fbByte p) (s.fbByte (p + 1)) (s.fbByte (p + 2)) (s.fbByte (p + 3))

/-- The uncontrolled record at index `p` of `FB` (30 R69). -/
def uncontrolledAt (s : State) (p : Nat) : Uncontrolled := unpackUncontrolled (s.fbByte p) (s.fbByte (p + 1))

/-- The brushless record at index `p` of `FB` (30 R70). -/
def brushlessAt (s : State) (p : Nat) : Brushless := ⟨s.fbByte p, s.fbByte (p + 1)⟩

/-- The first `len` bytes of `FB` are a valid motor frame: conditions (a) to (d) of 30 R72, the sections where 30 R67
puts them. -/
def ValidMotorFrame (s : State) (len : Nat) : Prop :=
  let c := (s.fbByte 0).toNat
  let u := (s.fbByte 1).toNat
  let b := (s.fbByte 2).toNat
  3 ≤ len ∧ len = 3 + 4 * c + 2 * u + 2 * b ∧ c ≤ 8 ∧ u ≤ 8 ∧ b ≤ 8 ∧
    (∀ k, k < c → (controlledAt s (3 + 4 * k)).id ≠ 0) ∧
    (∀ k, k < u → (uncontrolledAt s (3 + 4 * c + 2 * k)).id ≠ 0) ∧
    (∀ k, k < b → (brushlessAt s (3 + 4 * c + 2 * u + 2 * k)).id ≠ 0)

/-- The `MOTOR` group that decoding the frame in `FB` gives (41 R121, R122). -/
def decodedMotors (s : State) : MotorGroup :=
  let c := (s.fbByte 0).toNat
  let u := (s.fbByte 1).toNat
  let b := (s.fbByte 2).toNat
  { controlled := Vector.ofFn fun i => if i.val < c then controlledAt s (3 + 4 * i.val) else Controlled.empty
    uncontrolled := Vector.ofFn fun i =>
      if i.val < u then uncontrolledAt s (3 + 4 * c + 2 * i.val) else Uncontrolled.empty
    brushless := Vector.ofFn fun i =>
      if i.val < b then brushlessAt s (3 + 4 * c + 2 * u + 2 * i.val) else Brushless.empty
    parsingFailed := false }

/-- The six bytes of a servo record (30 R61, R62). -/
def servoRecordBytes (r : Servo) : List Byte :=
  [r.id, highByte r.position, lowByte r.position, highByte r.command, lowByte r.command, packServoStatus r]

/-- The four bytes of a controlled-motor record (30 R68). -/
def controlledRecordBytes (r : Controlled) : List Byte :=
  [r.id, r.wantedAngle, r.wantedNbTurns, packControlledStatus r]

/-- The two bytes of an uncontrolled-motor record (30 R69). -/
def uncontrolledRecordBytes (r : Uncontrolled) : List Byte := [r.id, packUncontrolledStatus r]

/-- The two bytes of a brushless record (30 R70). -/
def brushlessRecordBytes (r : Brushless) : List Byte := [r.id, r.onOff]

/-- The populated slots, in ascending order (00 R3, D12). -/
def populated {α : Type} (ident : α → Byte) (slots : List α) : List α := slots.filter fun r => ident r != 0

/-- `M` of 40 R103: the populated slots among all eight. -/
def ServoGroup.populatedSlots (g : ServoGroup) : List Servo := populated Servo.id g.servos.toList

/-- The records `SERVO_WRITE` emits (40 R103 lines 8 to 10): the populated slots of the first `min(nb_servos, 8)`
positions; `E` is how many. -/
def ServoGroup.emitted (g : ServoGroup) : List Servo :=
  populated Servo.id (g.servos.toList.take (min g.nbServos.toNat 8))

/-- The bytes `SERVO_WRITE` writes (40 R103): the count byte `M`, then the emitted records. -/
def servoFrameBytes (g : ServoGroup) : List Byte :=
  BitVec.ofNat 8 g.populatedSlots.length :: g.emitted.flatMap servoRecordBytes

/-- The bytes `MOTOR_WRITE` writes (41 R123): three count bytes, then the populated slots of the three arrays. -/
def motorFrameBytes (g : MotorGroup) : List Byte :=
  let cs := populated Controlled.id g.controlled.toList
  let us := populated Uncontrolled.id g.uncontrolled.toList
  let bs := populated Brushless.id g.brushless.toList
  [BitVec.ofNat 8 cs.length, BitVec.ofNat 8 us.length, BitVec.ofNat 8 bs.length] ++
    cs.flatMap controlledRecordBytes ++ us.flatMap uncontrolledRecordBytes ++ bs.flatMap brushlessRecordBytes

/-- The complete frame that a WRITE command which writes has in `FB` afterwards (20 R50): 40 R103, 41 R123, 42 R141.
The placeholder WRITEs have no frame (30 R74). -/
def frameWrittenBy (i : Instr) (s : State) : List Byte :=
  match i with
  | .servoWrite _ _ _ => servoFrameBytes s.servo
  | .motorWrite _ _ _ => motorFrameBytes s.motor
  | .ioWrite _ _ _ => [s.io.tirette]
  | .avoidWrite _ _ _ => []
  | .movingWrite _ _ _ => []
  | .servoRead _ _ => []
  | .servoSize _ => []
  | .motorRead _ _ => []
  | .motorSize _ _ _ => []
  | .ioRead _ _ => []
  | .ioSize => []
  | .avoidRead _ _ => []
  | .movingRead _ _ => []

/-- The bytes of a valid servo frame as they come back from decoding and encoding it: bits 7:6 of every status byte
cleared, every other byte as it is (40 R106, 30 R75). Byte `a` is a status byte when `a` is `6 + 6k`. -/
def servoByteCleaned (s : State) (a : Nat) : Byte :=
  if a ≠ 0 ∧ a % 6 = 0 then s.fbByte a &&& 0x3F#8 else s.fbByte a

/-- The same for a valid motor frame: bits 7:2 of the controlled and uncontrolled status bytes cleared (41 R126). -/
def motorByteCleaned (s : State) (a : Nat) : Byte :=
  let c := (s.fbByte 0).toNat
  let u := (s.fbByte 1).toNat
  if 3 ≤ a ∧ a < 3 + 4 * c ∧ (a - 3) % 4 = 3 then s.fbByte a &&& 0x03#8
  else if 3 + 4 * c ≤ a ∧ a < 3 + 4 * c + 2 * u ∧ (a - (3 + 4 * c)) % 2 = 1 then s.fbByte a &&& 0x03#8
  else s.fbByte a

/-- Condition W of 40 R104 (e): every populated slot lies below `nb_servos`. -/
def ServoGroup.Covered (g : ServoGroup) : Prop :=
  ∀ i : Fin 8, g.servos[i].id ≠ 0 → i.val < g.nbServos.toNat

/-- The populated slots' identifiers are pairwise different (40 R106). -/
def ServoGroup.DistinctIds (g : ServoGroup) : Prop :=
  ∀ i j : Fin 8, i ≠ j → g.servos[i].id ≠ 0 → g.servos[i].id ≠ g.servos[j].id

/-- The populated slots are exactly `0 .. n-1` (40 R106, 41 R126). -/
def PopulatedExactly {α : Type} (ident : α → Byte) (slots : Vector α 8) (n : Nat) : Prop :=
  n ≤ 8 ∧ ∀ i : Fin 8, ident slots[i] ≠ 0 ↔ i.val < n

end Sys2Proof.Machine
end

