-- ==== Sys2Proof/Certificates/Slice0/Obligations.lean ====
section
/-! DEFINITION. The statements for the provers: the numbered rules of spec/ that say what a command, a host action or
the machine does. Nothing is said about the value of a free value. -/

open Sys2Proof Sys2Proof.Machine

/-! ### The command word (spec 30 Part B) -/

/-- 30 R81 to R88: the decoder reads back every operand of every command the word can carry. -/
def Obligations.DecodeOfEncodeIsIdentity : Prop :=
  ∀ i : Instr, i.wellFormed = true → decode (encode i) = .ok i

/-- 30 R81 to R88: a word that decodes is the encoding of what it decodes to, which fits the word; so each command has
one word. -/
def Obligations.EncodeOfDecodeIsIdentity : Prop :=
  ∀ (w : CmdWord) (i : Instr), decode w = .ok i → encode i = w ∧ i.wellFormed = true

/-- 30 R85: a word selects the row whose match it has under the row's mask, and at most one row. -/
def Obligations.DecodeSelectsTheMatchingRow : Prop :=
  (∀ w row, row ∈ opcodeTable → (selectsRow w row = true ↔ ∃ i, decode w = .ok i ∧ i.opcode = row.1)) ∧
  (∀ w row row', row ∈ opcodeTable → row' ∈ opcodeTable → selectsRow w row = true → selectsRow w row' = true →
    row = row')

/-- 30 R86: a word that matches no row is refused by name, whatever the state, so it changes none; so are `OP` 0x3,
0x7 and 0xB whatever the other bits. -/
def Obligations.ReservedWordIsRefused : Prop :=
  ∀ (s : State) (w : CmdWord),
    ((∀ row ∈ opcodeTable, selectsRow w row = false) → ∃ why, takeCommand w s = .refused (.reservedCommand why w)) ∧
    (opField w = 0x3#4 ∨ opField w = 0x7#4 ∨ opField w = 0xB#4 →
      takeCommand w s = .refused (.reservedCommand .operation w))

/-- 30 R88 and the words of 95 section 2.9, one of each operation. -/
def Obligations.SpecWordsDecode : Prop :=
  decode 0x08000007#32 = .ok (.servoRead true 7) ∧
  decode 0x1400000D#32 = .ok (.servoWrite false true 13) ∧
  decode 0x20FF0000#32 = .ok (.servoSize 255) ∧
  decode 0x4800000B#32 = .ok (.motorRead true 11) ∧
  decode 0x5800000D#32 = .ok (.motorWrite true false 13) ∧
  decode 0x60030201#32 = .ok (.motorSize 3 2 1) ∧
  decode 0x88000001#32 = .ok (.ioRead true 1) ∧
  decode 0x9C000064#32 = .ok (.ioWrite true true 100) ∧
  decode 0xA0000000#32 = .ok .ioSize ∧
  decode 0xC8000005#32 = .ok (.avoidRead true 5) ∧
  decode 0xDC000064#32 = .ok (.avoidWrite true true 100) ∧
  decode 0xE8000000#32 = .ok (.movingRead true 0) ∧
  decode 0xFC00FFFF#32 = .ok (.movingWrite true true 65535) ∧
  decode 0x08010007#32 = .error .mustBeZero ∧
  decode 0x30000000#32 = .error .operation

/-! ### Steps and the host (spec 10 R29, 30 R89, 70 R180) -/

/-- 00 R4, 30 R81, with the host's script of the model (log 1): when the host presents a word, the step is that word's,
the script moved on; where the word decodes, it is the command's. The word `withFetchWord` presents is run by the very
next step, in the state it was presented to (log 10). -/
def Obligations.StepRunsThePresentedCommand : Prop :=
  (∀ (s : State) (w : CmdWord) (rest : HostScript), s.host = .act (.command w) rest →
    step s = takeCommand w (s.setHost rest)) ∧
  (∀ (s : State) (w : CmdWord) (rest : HostScript) (i : Instr), s.host = .act (.command w) rest →
    decode w = .ok i → step s = exec i (s.setHost rest)) ∧
  (∀ (s : State) (w : Nat) (i : Instr), decodeTableWord 32 w = some i → step (s.withFetchWord 32 w) = exec i s)

/-- The model's choice (log 1), after 60 R172: with nothing to do the block stays as it is. -/
def Obligations.IdleBlockStaysAsItIs : Prop :=
  ∀ s : State, s.host = .done → step s = .next s

/-- 10 R29 and R25, with the host's script of the model (log 1): a host write to a register field stores the value
truncated to the field's width, changes no other field and no byte of `FB`. -/
def Obligations.HostStoresOneRegister : Prop :=
  ∀ (s : State) (r : Reg) (v : Nat) (rest : HostScript), s.host = .act (.storeReg r v) rest →
    ∃ t, step s = .next t ∧ readReg t r = v % 2 ^ r.width ∧ (∀ r', r' ≠ r → readReg t r' = readReg s r') ∧
      (∀ a, t.fbByte a = s.fbByte a) ∧ t.host = rest

/-- 10 R29, 30 R89, with the host's script of the model (log 1): the host writes a run of bytes of `FB`; nothing else
changes. -/
def Obligations.HostStoresBytes : Prop :=
  ∀ (s : State) (first : Nat) (bytes : List Byte) (rest : HostScript), s.host = .act (.storeBytes first bytes) rest →
    first + bytes.length ≤ Config.fbSize →
    ∃ t, step s = .next t ∧ t = { s with fb := t.fb, host := rest } ∧
      (∀ k (h : k < bytes.length), t.fbByte (first + k) = bytes[k]) ∧
      (∀ a, a < first ∨ first + bytes.length ≤ a → t.fbByte a = s.fbByte a)

/-- 10 R29, 30 R89, with the host's script and its tests of the model (log 1, log 7): a host read, of a register field or
of a byte inside `FB`, changes nothing but the host's place in its script, and a branch goes by the value read. -/
def Obligations.HostReadsAndBranches : Prop :=
  (∀ (s : State) (r : Reg) (rest : HostScript), s.host = .act (.read (.reg r)) rest →
    step s = .next (s.setHost rest)) ∧
  (∀ (s : State) (a : Nat) (rest : HostScript), a < Config.fbSize → s.host = .act (.read (.byte a)) rest →
    step s = .next (s.setHost rest)) ∧
  (∀ (s : State) (r : Reg) (v : Nat) (yes no : HostScript), s.host = .branch (.equals (.reg r) v) yes no →
    step s = .next (s.setHost (if readReg s r = v then yes else no))) ∧
  (∀ (s : State) (r : Reg) (v : Nat) (yes no : HostScript), s.host = .branch (.below (.reg r) v) yes no →
    step s = .next (s.setHost (if readReg s r < v then yes else no))) ∧
  (∀ (s : State) (a v : Nat) (yes no : HostScript), a < Config.fbSize → s.host = .branch (.equals (.byte a) v) yes no →
    step s = .next (s.setHost (if (s.fbByte a).toNat = v then yes else no))) ∧
  (∀ (s : State) (a v : Nat) (yes no : HostScript), a < Config.fbSize → s.host = .branch (.below (.byte a) v) yes no →
    step s = .next (s.setHost (if (s.fbByte a).toNat < v then yes else no)))

/-- 70 R180: reset puts every flag to 1 and every other register field to 0, whatever they were; `State.reset` has the
same values. Nothing is said of `FB` (70 R181). -/
def Obligations.ResetGivesTheResetValues : Prop :=
  (∀ r, readReg State.reset r = if isFlag r then 1 else 0) ∧
  (∀ s r, readReg (resetBlock s) r = if isFlag r then 1 else 0)

/-- 30 R89 `RESET`, with the host's script of the model (log 1): the step is the reset, the script moved on. -/
def Obligations.HostResetsTheBlock : Prop :=
  ∀ (s : State) (rest : HostScript), s.host = .act .reset rest →
    ∃ t, step s = .next t ∧ t = resetBlock (s.setHost rest) ∧ t.host = rest

/-- 70 R182: the WRITE commands right after reset, by their ordinary rules: the empty frames. -/
def Obligations.WritesRightAfterReset : Prop :=
  (∃ t, exec (.servoWrite true true 1) State.reset = .next t ∧ t.fbByte 0 = 0#8 ∧ t.ret = 1#16) ∧
  (∃ t, exec (.motorWrite true true 3) State.reset = .next t ∧
    t.fbByte 0 = 0#8 ∧ t.fbByte 1 = 0#8 ∧ t.fbByte 2 = 0#8 ∧ t.ret = 3#16) ∧
  (∃ t, exec (.ioWrite true true 1) State.reset = .next t ∧ t.fbByte 0 = 0#8 ∧ t.ret = 1#16)

/-! ### The whole machine -/

/-- The invariant, which says the canonical form of the model's memory (log 3), holds after reset. -/
def Obligations.InvariantHoldsAtReset : Prop := State.reset.Inv

/-- Every step keeps the invariant: `FB` in canonical form, no byte listed that does not exist (20 R42, R51), the draws
fresh (the model's own fields, log 2, log 3). -/
def Obligations.EveryStepKeepsTheInvariant : Prop :=
  ∀ s t : State, s.Inv → step s = .next t → t.Inv

/-- 60 R160, 20 R48 (d), 70 R195: every command completes, in every state and for every operand values; none makes an
access outside `FB`. -/
def Obligations.EveryCommandCompletes : Prop :=
  ∀ (i : Instr) (s : State), ∃ t, exec i s = .next t

/-- 20 R48 (d), 60 R160: a step faults only when its own event is a host action, or a branch on a test, that names a
byte outside `FB`; the byte the fault carries is one that this event names. So no command faults. That such an event
faults is the model's choice (log 5). -/
def Obligations.OnlyIllFormedHostActionsFault : Prop :=
  ∀ (s : State) (f : Fault), step s = .fault f →
    ∃ b, f = .outsideFrameBuffer b ∧ Config.fbSize ≤ b ∧
      ((∃ a rest, s.host = .act a rest ∧ a.wellFormed = false ∧ a.namesByte b) ∨
       (∃ t yes no, s.host = .branch t yes no ∧ t.wellFormed = false ∧ t.namesByte b))

/-- 10 R32: what each command leaves as it was. A READ writes its own group only; a WRITE and a SIZE write no group; a
READ and a SIZE write no byte of `FB`; a WRITE writes no byte at or above the number it leaves in `RET`, and
`AVOID_WRITE` and `MOVING_WRITE` write none; a READ does not write `RET`. No command touches what the host does next
(the model's own field, log 1). -/
def Obligations.CommandsTouchOnlyTheirOwnState : Prop :=
  ∀ (i : Instr) (s t : State), exec i s = .next t →
    ((∀ src len, i ≠ .servoRead src len) → t.servo = s.servo) ∧
    ((∀ src len, i ≠ .motorRead src len) → t.motor = s.motor) ∧
    ((∀ src len, i ≠ .ioRead src len) → t.io = s.io) ∧
    ((∀ src len, i ≠ .avoidRead src len) → t.avoid = s.avoid) ∧
    ((∀ src len, i ≠ .movingRead src len) → t.moving = s.moving) ∧
    (i.isRead = true → t.ret = s.ret) ∧
    (i.capacity = none → ∀ a, t.fbByte a = s.fbByte a) ∧
    (∀ cap, i.capacity = some cap → ∀ a, t.ret.toNat ≤ a → t.fbByte a = s.fbByte a) ∧
    ((∃ dst obj cap, i = .avoidWrite dst obj cap ∨ i = .movingWrite dst obj cap) → ∀ a, t.fbByte a = s.fbByte a) ∧
    t.host = s.host

/-- 10 R26: no operation's behaviour depends on a flag. With other flags in the state the command leaves the same bytes
of `FB`, the same `RET` and the same groups but for the flags it does not write; the group a READ writes comes out with
the same flag and, where that is 0, the same altogether (where it is 1 the other fields are UNSPEC). -/
def Obligations.FlagsAreNeverConsulted : Prop :=
  ∀ (i : Instr) (s u t : State), exec i s = .next t →
    ∃ t', exec i (s.withFlagsOf u) = .next t' ∧ t'.ret = t.ret ∧ (∀ a, t'.fbByte a = t.fbByte a) ∧
      (match i with
        | .servoRead _ _ => t'.servo.parsingFailed = t.servo.parsingFailed ∧
            (t.servo.parsingFailed = false → t'.servo = t.servo)
        | _ => t'.servo = { t.servo with parsingFailed := u.servo.parsingFailed }) ∧
      (match i with
        | .motorRead _ _ => t'.motor.parsingFailed = t.motor.parsingFailed ∧
            (t.motor.parsingFailed = false → t'.motor = t.motor)
        | _ => t'.motor = { t.motor with parsingFailed := u.motor.parsingFailed }) ∧
      (match i with
        | .ioRead _ _ => t'.io.parsingFailed = t.io.parsingFailed ∧ (t.io.parsingFailed = false → t'.io = t.io)
        | _ => t'.io = { t.io with parsingFailed := u.io.parsingFailed }) ∧
      (match i with
        | .avoidRead _ _ => t'.avoid.parsingFailed = true
        | _ => t'.avoid = u.avoid) ∧
      (match i with
        | .movingRead _ _ => t'.moving.parsingFailed = true
        | _ => t'.moving = u.moving)

/-- 20 R50, R48 (b), (c): a WRITE that answers 0 in `RET` changed no byte; one that answers more wrote its complete
frame to the bytes below `RET`, which is the frame's length, and no other byte; `RET` is at most `CAP` and at most 67. -/
def Obligations.WriteIsAllOrNothing : Prop :=
  ∀ (i : Instr) (cap : Nat) (s t : State), i.capacity = some cap → exec i s = .next t →
    (0 < t.ret.toNat → FrameStored s t (frameWrittenBy i s) ∧ (frameWrittenBy i s).length = t.ret.toNat) ∧
    (t.ret.toNat = 0 → ∀ a, t.fbByte a = s.fbByte a) ∧
    (∀ a, t.ret.toNat ≤ a → t.fbByte a = s.fbByte a) ∧ t.ret.toNat ≤ cap ∧ t.ret.toNat ≤ 67

/-- 20 R49: a READ leaves every byte of `FB` unchanged, and the same READ again gives the same result; after a failed
READ, the same flag (its other fields are UNSPEC). -/
def Obligations.ReadingIsRepeatable : Prop :=
  ∀ (i : Instr) (s t : State), i.isRead = true → exec i s = .next t →
    (∀ a, t.fbByte a = s.fbByte a) ∧
    ∃ t', exec i t = .next t' ∧
      t'.servo.parsingFailed = t.servo.parsingFailed ∧ t'.motor.parsingFailed = t.motor.parsingFailed ∧
      t'.io.parsingFailed = t.io.parsingFailed ∧ t'.avoid = t.avoid ∧ t'.moving = t.moving ∧
      (t.servo.parsingFailed = false → t'.servo = t.servo) ∧
      (t.motor.parsingFailed = false → t'.motor = t.motor) ∧
      (t.io.parsingFailed = false → t'.io = t.io)

/-- 00 R5, 20 R48 (a), (c): what a READ decodes depends on its operands and on the bytes of `FB` below `LEN` (and below
67) alone: not on the bytes beyond, not on the old contents of the group it writes, not on anything else. -/
def Obligations.ReadDependsOnTheFrameAlone : Prop :=
  ∀ (src : Bool) (len : Nat) (s s' : State), AgreeBelow (min len 67) s s' →
    (∃ t t', exec (.servoRead src len) s = .next t ∧ exec (.servoRead src len) s' = .next t' ∧
      t.servo.parsingFailed = t'.servo.parsingFailed ∧ (t.servo.parsingFailed = false → t.servo = t'.servo)) ∧
    (∃ t t', exec (.motorRead src len) s = .next t ∧ exec (.motorRead src len) s' = .next t' ∧
      t.motor.parsingFailed = t'.motor.parsingFailed ∧ (t.motor.parsingFailed = false → t.motor = t'.motor)) ∧
    (∃ t t', exec (.ioRead src len) s = .next t ∧ exec (.ioRead src len) s' = .next t' ∧
      t.io.parsingFailed = t'.io.parsingFailed ∧ (t.io.parsingFailed = false → t.io = t'.io))

/-- 10 R22: no command that the word can carry leaves more than 2043 in `RET` that was not there before: a WRITE or
SIZE writes at most 2043, so 16 bits never overflow. -/
def Obligations.RetNeverOverflows : Prop :=
  ∀ (i : Instr) (s t : State), i.wellFormed = true → i.isRead = false → exec i s = .next t → t.ret.toNat ≤ 2043

/-! ### Memory (spec 20) -/

/-- 20 R42, inside `FB`: a byte read is the byte of `FB`, a byte written is the byte read back, and no other byte
changes. -/
def Obligations.ByteWriteChangesOneByte : Prop :=
  ∀ (s : State) (a : Nat) (v : Byte), a < Config.fbSize →
    memRead1 s a = .ok (s.fbByte a) ∧
    ∃ t, memWrite1 s a v = .ok t ∧ memRead1 t a = .ok v ∧ (∀ b, b ≠ a → t.fbByte b = s.fbByte b) ∧
      t = { s with fb := t.fb }

/-- 20 R43: the byte at the lower index is the more significant. -/
def Obligations.HalfReadIsBigEndian : Prop :=
  ∀ (s : State) (a : Nat), a + 1 < Config.fbSize →
    ∃ v, memRead2 s a = .ok v ∧ v.toNat = (s.fbByte a).toNat * 256 + (s.fbByte (a + 1)).toNat

/-- 20 R44: bits 15:8 go to the lower index, bits 7:0 to the next, and no other byte changes. -/
def Obligations.HalfWriteIsBigEndian : Prop :=
  ∀ (s : State) (a : Nat) (v : Half), a + 1 < Config.fbSize →
    ∃ t, memWrite2 s a v = .ok t ∧ (t.fbByte a).toNat = v.toNat / 256 ∧ (t.fbByte (a + 1)).toNat = v.toNat % 256 ∧
      (∀ b, b ≠ a → b ≠ a + 1 → t.fbByte b = s.fbByte b) ∧ t = { s with fb := t.fb }

/-- 30 R64, R68, R69, R75: the encoders put every field at its bit and 0 elsewhere, so the status bytes are those sums;
the decoders take the fields from those bits and ignore the others. -/
def Obligations.StatusBytesArePackedAsTheSpecSays : Prop :=
  (∀ r : Servo, (packServoStatus r).toNat =
    32 * r.commandType.toNat + 16 * r.blocked.toNat + 8 * r.blockingMode.toNat + r.color.toNat) ∧
  (∀ r : Controlled, (packControlledStatus r).toNat = 2 * r.finished.toNat + r.newCommand.toNat) ∧
  (∀ r : Uncontrolled, (packUncontrolledStatus r).toNat = 2 * r.onOff.toNat + r.rotation.toNat) ∧
  (∀ (id : Byte) (p c : Half) (st : Byte),
    (unpackServo id p c st).commandType.toNat = st.toNat / 32 % 2 ∧
    (unpackServo id p c st).blocked.toNat = st.toNat / 16 % 2 ∧
    (unpackServo id p c st).blockingMode.toNat = st.toNat / 8 % 2 ∧
    (unpackServo id p c st).color.toNat = st.toNat % 8) ∧
  (∀ id angle turns st : Byte,
    (unpackControlled id angle turns st).finished.toNat = st.toNat / 2 % 2 ∧
    (unpackControlled id angle turns st).newCommand.toNat = st.toNat % 2) ∧
  (∀ id st : Byte,
    (unpackUncontrolled id st).onOff.toNat = st.toNat / 2 % 2 ∧
    (unpackUncontrolled id st).rotation.toNat = st.toNat % 2)

/-! ### Servo (spec 40) -/

/-- 40 R101, 30 R65: `SERVO_READ` succeeds exactly on a present source with a valid servo frame, and then `SERVO` is
the decoded collection and nothing else changes; otherwise the flag is 1, the other fields of `SERVO` are unsaid
(UNSPEC), and nothing else changes (but `draws`,
which a failure advances and which is the model's own field: log 2). -/
def Obligations.ServoReadDecodesExactlyValidFrames : Prop :=
  (∀ src len, encode (.servoRead src len) = encodeFormatR 0x0#4 src len) ∧
  ∀ (src : Bool) (len : Nat) (s : State),
    (src = true ∧ ValidServoFrame s len →
      exec (.servoRead src len) s = .next { s with servo := decodedServos s }) ∧
    (¬ (src = true ∧ ValidServoFrame s len) →
      ∃ g : ServoGroup, exec (.servoRead src len) s = .next { s with servo := g, draws := s.draws + 1 } ∧
        g.parsingFailed = true)

/-- 40 R102: what holds after a `SERVO_READ` that succeeded. -/
def Obligations.ServoReadPostconditions : Prop :=
  ∀ (src : Bool) (len : Nat) (s t : State), exec (.servoRead src len) s = .next t → t.servo.parsingFailed = false →
    t.servo.nbServos = s.fbByte 0 ∧ t.servo.nbServos.toNat ≤ 8 ∧
    PopulatedExactly Servo.id t.servo.servos t.servo.nbServos.toNat ∧
    (∀ i : Fin 8, i.val < t.servo.nbServos.toNat → t.servo.servos[i] = servoRecordAt s i.val) ∧
    (∀ i : Fin 8, t.servo.nbServos.toNat ≤ i.val → t.servo.servos[i] = Servo.empty) ∧
    t.servo.DistinctIds ∧ t.servo.populatedSlots.length = t.servo.nbServos.toNat

/-- 40 R103, 20 R50: `SERVO_WRITE` with an absent buffer or object or too small a capacity writes 0 to `RET` and nothing
else; otherwise it writes the count byte of all eight slots and the records of the first `min(nb_servos, 8)`, exactly
those bytes, and their number to `RET`; `SERVO` and everything else are unchanged. -/
def Obligations.ServoWriteEncodesTheSlots : Prop :=
  (∀ dst obj cap, encode (.servoWrite dst obj cap) = encodeFormatW 0x1#4 dst obj cap) ∧
  ∀ (dst obj : Bool) (cap : Nat) (s : State),
    (dst = false ∨ obj = false ∨ cap < 1 + 6 * s.servo.populatedSlots.length →
      exec (.servoWrite dst obj cap) s = .next (s.setRet 0)) ∧
    (dst = true → obj = true → 1 + 6 * s.servo.populatedSlots.length ≤ cap →
      ∃ t, exec (.servoWrite dst obj cap) s = .next t ∧ t.ret.toNat = 1 + 6 * s.servo.emitted.length ∧
        FrameStored s t (servoFrameBytes s.servo) ∧ (servoFrameBytes s.servo).length = t.ret.toNat ∧
        t = { s with ret := t.ret, fb := t.fb })

/-- 40 R104: the values `RET` can have, when it is 0, and the minimal size under condition W. -/
def Obligations.ServoWriteReturnValue : Prop :=
  ∀ (dst obj : Bool) (cap : Nat) (s : State), ∃ t, exec (.servoWrite dst obj cap) s = .next t ∧
    s.servo.emitted.length ≤ s.servo.populatedSlots.length ∧ s.servo.populatedSlots.length ≤ 8 ∧
    (t.ret.toNat = 0 ∨ t.ret.toNat = 1 + 6 * s.servo.emitted.length) ∧
    (t.ret.toNat = 0 ↔ dst = false ∨ obj = false ∨ cap < 1 + 6 * s.servo.populatedSlots.length) ∧
    (t.ret.toNat = 0 → ∀ a, t.fbByte a = s.fbByte a) ∧
    (0 < t.ret.toNat → t.ret.toNat ≤ cap ∧ FrameStored s t (servoFrameBytes s.servo) ∧
      (servoFrameBytes s.servo).length = t.ret.toNat) ∧
    (s.servo.Covered → 0 < t.ret.toNat → t.ret.toNat = servoFrameSize s.servo.populatedSlots.length)

/-- 40 R105: `RET <- 1 + 6*A0`, exact for every count the word can carry; nothing else changes. -/
def Obligations.ServoSizeReturnsTheFormula : Prop :=
  (∀ n, encode (.servoSize n) = encodeFormatS 0x2#4 n 0 0) ∧
  ∀ (n : Nat) (s : State), (Instr.servoSize n).wellFormed = true →
    ∃ v : Half, exec (.servoSize n) s = .next (s.setRet v) ∧ v.toNat = 1 + 6 * n

/-- 40 R106, second sentence: with distinct identifiers and every populated slot below `nb_servos`, encoding and then
decoding gives back the populated records in order, moved down to slots 0 up, and their number in `nb_servos`. -/
def Obligations.ServoRoundTripCompacts : Prop :=
  ∀ (s : State) (cap : Nat), s.servo.Covered → s.servo.DistinctIds →
    1 + 6 * s.servo.populatedSlots.length ≤ cap →
    ∃ t u, exec (.servoWrite true true cap) s = .next t ∧ exec (.servoRead true t.ret.toNat) t = .next u ∧
      u.servo.parsingFailed = false ∧ u.servo.nbServos.toNat = s.servo.populatedSlots.length ∧
      u.servo.populatedSlots = s.servo.populatedSlots ∧
      PopulatedExactly Servo.id u.servo.servos s.servo.populatedSlots.length

/-- 40 R106, first sentence: for a collection held as the discipline of 70 R186 asks, the round trip leaves the
populated slots field for field as they were and the others all-zero. -/
def Obligations.ServoRoundTripKeepsADisciplinedCollection : Prop :=
  ∀ (s : State) (n cap : Nat), PopulatedExactly Servo.id s.servo.servos n → s.servo.DistinctIds →
    s.servo.nbServos.toNat = n → 1 + 6 * n ≤ cap →
    ∃ t u, exec (.servoWrite true true cap) s = .next t ∧ exec (.servoRead true t.ret.toNat) t = .next u ∧
      u.servo.parsingFailed = false ∧ u.servo.nbServos.toNat = n ∧
      (∀ i : Fin 8, i.val < n → u.servo.servos[i] = s.servo.servos[i]) ∧
      (∀ i : Fin 8, n ≤ i.val → u.servo.servos[i] = Servo.empty)

/-- 40 R106, last sentence: decoding a valid servo frame and encoding the result gives the frame back, bits 7:6 of
every status byte cleared. -/
def Obligations.ServoFrameRoundTrip : Prop :=
  ∀ (s : State) (len : Nat), ValidServoFrame s len →
    ∃ t u, exec (.servoRead true len) s = .next t ∧ exec (.servoWrite true true len) t = .next u ∧
      u.ret.toNat = len ∧ (∀ a, a < len → u.fbByte a = servoByteCleaned s a)

/-- 70 R186, C1: when a populated slot lies at or beyond `nb_servos`, a successful `SERVO_WRITE` leaves what is not a
valid servo frame of its length, and `SERVO_READ` of it fails. -/
def Obligations.UncoveredServoSlotSpoilsTheFrame : Prop :=
  ∀ (s t : State) (cap : Nat), ¬ s.servo.Covered → exec (.servoWrite true true cap) s = .next t → 0 < t.ret.toNat →
    ¬ ValidServoFrame t t.ret.toNat ∧
    ∃ u, exec (.servoRead true t.ret.toNat) t = .next u ∧ u.servo.parsingFailed = true

/-! ### Motor (spec 41) -/

/-- 41 R121, 30 R72: `MOTOR_READ` succeeds exactly on a present source with a valid motor frame (duplicate identifiers
allowed), and then `MOTOR` is the decoded collection and nothing else changes; otherwise the flag is 1, the other
fields of `MOTOR` are unsaid (UNSPEC), and nothing else changes (but `draws`,
which a failure advances and which is the model's own field: log 2). -/
def Obligations.MotorReadDecodesExactlyValidFrames : Prop :=
  (∀ src len, encode (.motorRead src len) = encodeFormatR 0x4#4 src len) ∧
  ∀ (src : Bool) (len : Nat) (s : State),
    (src = true ∧ ValidMotorFrame s len →
      exec (.motorRead src len) s = .next { s with motor := decodedMotors s }) ∧
    (¬ (src = true ∧ ValidMotorFrame s len) →
      ∃ g : MotorGroup, exec (.motorRead src len) s = .next { s with motor := g, draws := s.draws + 1 } ∧
        g.parsingFailed = true)

/-- 41 R122: what holds after a `MOTOR_READ` that succeeded. -/
def Obligations.MotorReadPostconditions : Prop :=
  ∀ (src : Bool) (len : Nat) (s t : State), exec (.motorRead src len) s = .next t → t.motor.parsingFailed = false →
    PopulatedExactly Controlled.id t.motor.controlled (s.fbByte 0).toNat ∧
    PopulatedExactly Uncontrolled.id t.motor.uncontrolled (s.fbByte 1).toNat ∧
    PopulatedExactly Brushless.id t.motor.brushless (s.fbByte 2).toNat ∧
    t.motor = decodedMotors s ∧
    (populated Controlled.id t.motor.controlled.toList).length = (s.fbByte 0).toNat ∧
    (populated Uncontrolled.id t.motor.uncontrolled.toList).length = (s.fbByte 1).toNat ∧
    (populated Brushless.id t.motor.brushless.toList).length = (s.fbByte 2).toNat

/-- 41 R123, 20 R50: `MOTOR_WRITE` with an absent buffer or object or too small a capacity writes 0 to `RET` and nothing
else; otherwise it writes exactly the frame of the populated slots and its length to `RET`; `MOTOR` and everything else
are unchanged. -/
def Obligations.MotorWriteEncodesTheSlots : Prop :=
  (∀ dst obj cap, encode (.motorWrite dst obj cap) = encodeFormatW 0x5#4 dst obj cap) ∧
  ∀ (dst obj : Bool) (cap : Nat) (s : State),
    let need := 3 + 4 * (populated Controlled.id s.motor.controlled.toList).length +
      2 * (populated Uncontrolled.id s.motor.uncontrolled.toList).length +
      2 * (populated Brushless.id s.motor.brushless.toList).length
    (dst = false ∨ obj = false ∨ cap < need → exec (.motorWrite dst obj cap) s = .next (s.setRet 0)) ∧
    (dst = true → obj = true → need ≤ cap →
      ∃ t, exec (.motorWrite dst obj cap) s = .next t ∧ t.ret.toNat = need ∧
        FrameStored s t (motorFrameBytes s.motor) ∧ (motorFrameBytes s.motor).length = need ∧
        t = { s with ret := t.ret, fb := t.fb })

/-- 41 R124: each count is at most 8, `RET` is 0 or the exact size and then from 3 to 67 and at most `CAP`, when it is
0, and what a successful `MOTOR_WRITE` leaves is a valid motor frame of length `RET`. -/
def Obligations.MotorWriteLeavesAValidFrame : Prop :=
  ∀ (dst obj : Bool) (cap : Nat) (s : State),
    let mc := (populated Controlled.id s.motor.controlled.toList).length
    let mu := (populated Uncontrolled.id s.motor.uncontrolled.toList).length
    let mb := (populated Brushless.id s.motor.brushless.toList).length
    let need := 3 + 4 * mc + 2 * mu + 2 * mb
    (mc ≤ 8 ∧ mu ≤ 8 ∧ mb ≤ 8) ∧
    ∃ t, exec (.motorWrite dst obj cap) s = .next t ∧
      (t.ret.toNat = 0 ∨ t.ret.toNat = need ∧ 3 ≤ t.ret.toNat ∧ t.ret.toNat ≤ 67) ∧
      (t.ret.toNat = 0 ↔ dst = false ∨ obj = false ∨ cap < need) ∧
      (t.ret.toNat = 0 → ∀ a, t.fbByte a = s.fbByte a) ∧
      (0 < t.ret.toNat → t.ret.toNat ≤ cap ∧ t.ret.toNat = (motorFrameBytes s.motor).length ∧
        FrameStored s t (motorFrameBytes s.motor) ∧ ValidMotorFrame t t.ret.toNat)

/-- 41 R125: `RET <- 3 + 4*A0 + 2*A1 + 2*A2`, exact for every counts the word can carry; nothing else changes. -/
def Obligations.MotorSizeReturnsTheFormula : Prop :=
  (∀ c u b, encode (.motorSize c u b) = encodeFormatS 0x6#4 c u b) ∧
  ∀ (c u b : Nat) (s : State), (Instr.motorSize c u b).wellFormed = true →
    ∃ v : Half, exec (.motorSize c u b) s = .next (s.setRet v) ∧ v.toNat = 3 + 4 * c + 2 * u + 2 * b

/-- 41 R126: for every content of `MOTOR`, encoding and then decoding gives back in each array the populated records in
order, moved down to slots 0 up, every other slot all-zero. -/
def Obligations.MotorRoundTripCompacts : Prop :=
  ∀ (s : State) (cap : Nat), (motorFrameBytes s.motor).length ≤ cap →
    ∃ t u, exec (.motorWrite true true cap) s = .next t ∧ exec (.motorRead true t.ret.toNat) t = .next u ∧
      u.motor.parsingFailed = false ∧
      u.motor.controlled.toList = populated Controlled.id s.motor.controlled.toList ++
        List.replicate (8 - (populated Controlled.id s.motor.controlled.toList).length) Controlled.empty ∧
      u.motor.uncontrolled.toList = populated Uncontrolled.id s.motor.uncontrolled.toList ++
        List.replicate (8 - (populated Uncontrolled.id s.motor.uncontrolled.toList).length) Uncontrolled.empty ∧
      u.motor.brushless.toList = populated Brushless.id s.motor.brushless.toList ++
        List.replicate (8 - (populated Brushless.id s.motor.brushless.toList).length) Brushless.empty

/-- 41 R126, last direction: decoding a valid motor frame and encoding the result gives the frame back, bits 7:2 of
every controlled and uncontrolled status byte cleared. -/
def Obligations.MotorFrameRoundTrip : Prop :=
  ∀ (s : State) (len : Nat), ValidMotorFrame s len →
    ∃ t u, exec (.motorRead true len) s = .next t ∧ exec (.motorWrite true true len) t = .next u ∧
      u.ret.toNat = len ∧ (∀ a, a < len → u.fbByte a = motorByteCleaned s a)

/-! ### IO and the placeholders (spec 42, 43) -/

/-- 42 R140: `IO_READ` takes byte 0 verbatim for every `LEN` of at least 1; with no source or no byte the flag is 1 and
`tirette` is unsaid (UNSPEC). Nothing else changes (but `draws`,
which a failure advances and which is the model's own field: log 2). -/
def Obligations.IoReadTakesTheByteVerbatim : Prop :=
  (∀ src len, encode (.ioRead src len) = encodeFormatR 0x8#4 src len) ∧
  ∀ (src : Bool) (len : Nat) (s : State),
    (src = true → 1 ≤ len → exec (.ioRead src len) s = .next (s.setIo ⟨s.fbByte 0, false⟩)) ∧
    (src = false ∨ len = 0 → ∃ v, exec (.ioRead src len) s = .next { s with io := ⟨v, true⟩, draws := s.draws + 1 })

/-- 42 R141: `IO_WRITE` writes `tirette` to byte 0, all eight bits, and 1 to `RET`, or 0 to `RET` and no byte. -/
def Obligations.IoWriteWritesTheByte : Prop :=
  (∀ dst obj cap, encode (.ioWrite dst obj cap) = encodeFormatW 0x9#4 dst obj cap) ∧
  ∀ (dst obj : Bool) (cap : Nat) (s : State),
    (dst = false ∨ obj = false ∨ cap = 0 → exec (.ioWrite dst obj cap) s = .next (s.setRet 0)) ∧
    (dst = true → obj = true → 1 ≤ cap →
      ∃ t, exec (.ioWrite dst obj cap) s = .next t ∧ t.ret = 1 ∧ FrameStored s t [s.io.tirette] ∧
        t = { s with ret := t.ret, fb := t.fb })

/-- 42 R142: `IO_SIZE` answers 1. -/
def Obligations.IoSizeIsOne : Prop :=
  encode .ioSize = encodeFormatS 0xA#4 0 0 0 ∧
  ∀ s : State, exec .ioSize s = .next (s.setRet 1)

/-- 42 R143: the IO codec is the identity in both directions. -/
def Obligations.IoRoundTrip : Prop :=
  (∀ (s : State) (cap : Nat), 1 ≤ cap →
    ∃ t u, exec (.ioWrite true true cap) s = .next t ∧ exec (.ioRead true 1) t = .next u ∧
      u.io.tirette = s.io.tirette ∧ u.io.parsingFailed = false) ∧
  (∀ s : State,
    ∃ t u, exec (.ioRead true 1) s = .next t ∧ exec (.ioWrite true true 1) t = .next u ∧
      u.fbByte 0 = s.fbByte 0 ∧ u.ret = 1)

/-- 43 R150 and R152: the placeholder READs set their flag, whatever their operands and whatever `FB` holds; nothing
else changes. -/
def Obligations.PlaceholderReadsAlwaysFail : Prop :=
  (∀ src len, encode (.avoidRead src len) = encodeFormatR 0xC#4 src len ∧
    encode (.movingRead src len) = encodeFormatR 0xE#4 src len) ∧
  ∀ (src : Bool) (len : Nat) (s : State),
    exec (.avoidRead src len) s = .next { s with avoid := ⟨true⟩ } ∧
    exec (.movingRead src len) s = .next { s with moving := ⟨true⟩ }

/-- 43 R151 and R153: the placeholder WRITEs answer 0 and write no byte, whatever their operands. -/
def Obligations.PlaceholderWritesWriteNothing : Prop :=
  (∀ dst obj cap, encode (.avoidWrite dst obj cap) = encodeFormatW 0xD#4 dst obj cap ∧
    encode (.movingWrite dst obj cap) = encodeFormatW 0xF#4 dst obj cap) ∧
  ∀ (dst obj : Bool) (cap : Nat) (s : State),
    exec (.avoidWrite dst obj cap) s = .next { s with ret := 0 } ∧
    exec (.movingWrite dst obj cap) s = .next { s with ret := 0 }

/-! ### The model's one fault (log 5) -/

/-- The model's choice (log 5), after 20 R42: when the step's event is a host action, or a branch on a test, that names a
byte outside `FB`, the step faults, with such a byte that the event names. -/
def Obligations.IllFormedHostActionsFault : Prop :=
  (∀ (s : State) (a : HostAction) (rest : HostScript), s.host = .act a rest → a.wellFormed = false →
    ∃ b, step s = .fault (.outsideFrameBuffer b) ∧ Config.fbSize ≤ b ∧ a.namesByte b) ∧
  (∀ (s : State) (t : HostTest) (yes no : HostScript), s.host = .branch t yes no → t.wellFormed = false →
    ∃ b, step s = .fault (.outsideFrameBuffer b) ∧ Config.fbSize ≤ b ∧ t.namesByte b)
end

