-- ==== Sys2Proof/Laws/Encoding.lean ====
section
/-! SUPPORT. The three formats of the command word as numbers, and its fields as quotients and remainders: with them a
fact about an encoding is a fact of arithmetic. -/

namespace Sys2Proof

theorem append_toNat {m n : Nat} (a : BitVec m) (b : BitVec n) : (a ++ b).toNat = a.toNat * 2 ^ n + b.toNat := by
  rw [BitVec.toNat_append, ← Nat.shiftLeft_add_eq_or_of_lt b.isLt, Nat.shiftLeft_eq]

@[simp] theorem bitOf_toNat (b : Bool) : (bitOf b).toNat = if b then 1 else 0 := by
  cases b <;> rfl

theorem encodeFormatR_toNat (op : BitVec 4) (src : Bool) (len : Nat) :
    (encodeFormatR op src len).toNat = op.toNat * 2 ^ 28 + (bitOf src).toNat * 2 ^ 27 + len % 65536 := by
  show ((op ++ bitOf src ++ 0#11 ++ BitVec.ofNat 16 len : BitVec (4 + 1 + 11 + 16))).toNat = _
  rw [append_toNat, append_toNat, append_toNat]
  simp only [BitVec.toNat_ofNat]
  omega

theorem encodeFormatW_toNat (op : BitVec 4) (dst obj : Bool) (cap : Nat) :
    (encodeFormatW op dst obj cap).toNat =
      op.toNat * 2 ^ 28 + (bitOf dst).toNat * 2 ^ 27 + (bitOf obj).toNat * 2 ^ 26 + cap % 65536 := by
  show ((op ++ bitOf dst ++ bitOf obj ++ 0#10 ++ BitVec.ofNat 16 cap : BitVec (4 + 1 + 1 + 10 + 16))).toNat = _
  rw [append_toNat, append_toNat, append_toNat, append_toNat]
  simp only [BitVec.toNat_ofNat]
  omega

theorem encodeFormatS_toNat (op : BitVec 4) (a0 a1 a2 : Nat) :
    (encodeFormatS op a0 a1 a2).toNat = op.toNat * 2 ^ 28 + a0 % 256 * 2 ^ 16 + a1 % 256 * 2 ^ 8 + a2 % 256 := by
  show ((op ++ 0#4 ++ BitVec.ofNat 8 a0 ++ BitVec.ofNat 8 a1 ++ BitVec.ofNat 8 a2 : BitVec (4 + 4 + 8 + 8 + 8))).toNat = _
  rw [append_toNat, append_toNat, append_toNat, append_toNat]
  simp only [BitVec.toNat_ofNat]
  omega

/-- A field of a word, as a quotient and a remainder. -/
theorem extract_eq_iff {n : Nat} (w : CmdWord) (i : Nat) (v : BitVec n) :
    w.extractLsb' i n = v ↔ w.toNat / 2 ^ i % 2 ^ n = v.toNat := by
  rw [← BitVec.toNat_inj, BitVec.extractLsb'_toNat, Nat.shiftRight_eq_div_pow]

/-- A bit of a word, as a quotient and a remainder. -/
theorem bit_eq_decide (w : CmdWord) (i : Nat) : w.getLsbD i = decide (w.toNat / 2 ^ i % 2 = 1) := by
  rw [BitVec.getLsbD, Nat.testBit_eq_decide_div_mod_eq]

theorem opField_toNat (w : CmdWord) : (opField w).toNat = w.toNat / 2 ^ 28 % 16 := by
  simp [opField, BitVec.extractLsb'_toNat, Nat.shiftRight_eq_div_pow]

theorem lenField_eq (w : CmdWord) : lenField w = w.toNat % 65536 := by
  simp [lenField, BitVec.extractLsb'_toNat]

theorem opField_encodeFormatR (op : BitVec 4) (src : Bool) (len : Nat) : opField (encodeFormatR op src len) = op := by
  have hop := op.isLt
  apply BitVec.eq_of_toNat_eq
  rw [opField_toNat, encodeFormatR_toNat, bitOf_toNat]
  split <;> omega

theorem opField_encodeFormatW (op : BitVec 4) (dst obj : Bool) (cap : Nat) :
    opField (encodeFormatW op dst obj cap) = op := by
  have hop := op.isLt
  apply BitVec.eq_of_toNat_eq
  rw [opField_toNat, encodeFormatW_toNat, bitOf_toNat, bitOf_toNat]
  split <;> split <;> omega

theorem opField_encodeFormatS (op : BitVec 4) (a0 a1 a2 : Nat) : opField (encodeFormatS op a0 a1 a2) = op := by
  have hop := op.isLt
  apply BitVec.eq_of_toNat_eq
  rw [opField_toNat, encodeFormatS_toNat]
  omega

end Sys2Proof
end

