-- ==== Sys2Proof/Laws/State.lean ====
section
/-! SUPPORT. One lemma per field per update of State, each true by unfolding one record update. -/

namespace Sys2Proof.Machine

@[simp] theorem State.setServo_servo (s : State) (g : ServoGroup) : (s.setServo g).servo = g := rfl
@[simp] theorem State.setServo_motor (s : State) (g : ServoGroup) : (s.setServo g).motor = s.motor := rfl
@[simp] theorem State.setServo_io (s : State) (g : ServoGroup) : (s.setServo g).io = s.io := rfl
@[simp] theorem State.setServo_avoid (s : State) (g : ServoGroup) : (s.setServo g).avoid = s.avoid := rfl
@[simp] theorem State.setServo_moving (s : State) (g : ServoGroup) : (s.setServo g).moving = s.moving := rfl
@[simp] theorem State.setServo_ret (s : State) (g : ServoGroup) : (s.setServo g).ret = s.ret := rfl
@[simp] theorem State.setServo_fb (s : State) (g : ServoGroup) : (s.setServo g).fb = s.fb := rfl
@[simp] theorem State.setServo_fbDraw (s : State) (g : ServoGroup) : (s.setServo g).fbDraw = s.fbDraw := rfl
@[simp] theorem State.setServo_draws (s : State) (g : ServoGroup) : (s.setServo g).draws = s.draws := rfl
@[simp] theorem State.setServo_host (s : State) (g : ServoGroup) : (s.setServo g).host = s.host := rfl

@[simp] theorem State.setMotor_servo (s : State) (g : MotorGroup) : (s.setMotor g).servo = s.servo := rfl
@[simp] theorem State.setMotor_motor (s : State) (g : MotorGroup) : (s.setMotor g).motor = g := rfl
@[simp] theorem State.setMotor_io (s : State) (g : MotorGroup) : (s.setMotor g).io = s.io := rfl
@[simp] theorem State.setMotor_avoid (s : State) (g : MotorGroup) : (s.setMotor g).avoid = s.avoid := rfl
@[simp] theorem State.setMotor_moving (s : State) (g : MotorGroup) : (s.setMotor g).moving = s.moving := rfl
@[simp] theorem State.setMotor_ret (s : State) (g : MotorGroup) : (s.setMotor g).ret = s.ret := rfl
@[simp] theorem State.setMotor_fb (s : State) (g : MotorGroup) : (s.setMotor g).fb = s.fb := rfl
@[simp] theorem State.setMotor_fbDraw (s : State) (g : MotorGroup) : (s.setMotor g).fbDraw = s.fbDraw := rfl
@[simp] theorem State.setMotor_draws (s : State) (g : MotorGroup) : (s.setMotor g).draws = s.draws := rfl
@[simp] theorem State.setMotor_host (s : State) (g : MotorGroup) : (s.setMotor g).host = s.host := rfl

@[simp] theorem State.setIo_servo (s : State) (g : IoGroup) : (s.setIo g).servo = s.servo := rfl
@[simp] theorem State.setIo_motor (s : State) (g : IoGroup) : (s.setIo g).motor = s.motor := rfl
@[simp] theorem State.setIo_io (s : State) (g : IoGroup) : (s.setIo g).io = g := rfl
@[simp] theorem State.setIo_avoid (s : State) (g : IoGroup) : (s.setIo g).avoid = s.avoid := rfl
@[simp] theorem State.setIo_moving (s : State) (g : IoGroup) : (s.setIo g).moving = s.moving := rfl
@[simp] theorem State.setIo_ret (s : State) (g : IoGroup) : (s.setIo g).ret = s.ret := rfl
@[simp] theorem State.setIo_fb (s : State) (g : IoGroup) : (s.setIo g).fb = s.fb := rfl
@[simp] theorem State.setIo_fbDraw (s : State) (g : IoGroup) : (s.setIo g).fbDraw = s.fbDraw := rfl
@[simp] theorem State.setIo_draws (s : State) (g : IoGroup) : (s.setIo g).draws = s.draws := rfl
@[simp] theorem State.setIo_host (s : State) (g : IoGroup) : (s.setIo g).host = s.host := rfl

@[simp] theorem State.setAvoid_servo (s : State) (g : StubGroup) : (s.setAvoid g).servo = s.servo := rfl
@[simp] theorem State.setAvoid_motor (s : State) (g : StubGroup) : (s.setAvoid g).motor = s.motor := rfl
@[simp] theorem State.setAvoid_io (s : State) (g : StubGroup) : (s.setAvoid g).io = s.io := rfl
@[simp] theorem State.setAvoid_avoid (s : State) (g : StubGroup) : (s.setAvoid g).avoid = g := rfl
@[simp] theorem State.setAvoid_moving (s : State) (g : StubGroup) : (s.setAvoid g).moving = s.moving := rfl
@[simp] theorem State.setAvoid_ret (s : State) (g : StubGroup) : (s.setAvoid g).ret = s.ret := rfl
@[simp] theorem State.setAvoid_fb (s : State) (g : StubGroup) : (s.setAvoid g).fb = s.fb := rfl
@[simp] theorem State.setAvoid_fbDraw (s : State) (g : StubGroup) : (s.setAvoid g).fbDraw = s.fbDraw := rfl
@[simp] theorem State.setAvoid_draws (s : State) (g : StubGroup) : (s.setAvoid g).draws = s.draws := rfl
@[simp] theorem State.setAvoid_host (s : State) (g : StubGroup) : (s.setAvoid g).host = s.host := rfl

@[simp] theorem State.setMoving_servo (s : State) (g : StubGroup) : (s.setMoving g).servo = s.servo := rfl
@[simp] theorem State.setMoving_motor (s : State) (g : StubGroup) : (s.setMoving g).motor = s.motor := rfl
@[simp] theorem State.setMoving_io (s : State) (g : StubGroup) : (s.setMoving g).io = s.io := rfl
@[simp] theorem State.setMoving_avoid (s : State) (g : StubGroup) : (s.setMoving g).avoid = s.avoid := rfl
@[simp] theorem State.setMoving_moving (s : State) (g : StubGroup) : (s.setMoving g).moving = g := rfl
@[simp] theorem State.setMoving_ret (s : State) (g : StubGroup) : (s.setMoving g).ret = s.ret := rfl
@[simp] theorem State.setMoving_fb (s : State) (g : StubGroup) : (s.setMoving g).fb = s.fb := rfl
@[simp] theorem State.setMoving_fbDraw (s : State) (g : StubGroup) : (s.setMoving g).fbDraw = s.fbDraw := rfl
@[simp] theorem State.setMoving_draws (s : State) (g : StubGroup) : (s.setMoving g).draws = s.draws := rfl
@[simp] theorem State.setMoving_host (s : State) (g : StubGroup) : (s.setMoving g).host = s.host := rfl

@[simp] theorem State.setRet_servo (s : State) (v : Half) : (s.setRet v).servo = s.servo := rfl
@[simp] theorem State.setRet_motor (s : State) (v : Half) : (s.setRet v).motor = s.motor := rfl
@[simp] theorem State.setRet_io (s : State) (v : Half) : (s.setRet v).io = s.io := rfl
@[simp] theorem State.setRet_avoid (s : State) (v : Half) : (s.setRet v).avoid = s.avoid := rfl
@[simp] theorem State.setRet_moving (s : State) (v : Half) : (s.setRet v).moving = s.moving := rfl
@[simp] theorem State.setRet_ret (s : State) (v : Half) : (s.setRet v).ret = v := rfl
@[simp] theorem State.setRet_fb (s : State) (v : Half) : (s.setRet v).fb = s.fb := rfl
@[simp] theorem State.setRet_fbDraw (s : State) (v : Half) : (s.setRet v).fbDraw = s.fbDraw := rfl
@[simp] theorem State.setRet_draws (s : State) (v : Half) : (s.setRet v).draws = s.draws := rfl
@[simp] theorem State.setRet_host (s : State) (v : Half) : (s.setRet v).host = s.host := rfl

@[simp] theorem State.setFb_servo (s : State) (m : Memory) : (s.setFb m).servo = s.servo := rfl
@[simp] theorem State.setFb_motor (s : State) (m : Memory) : (s.setFb m).motor = s.motor := rfl
@[simp] theorem State.setFb_io (s : State) (m : Memory) : (s.setFb m).io = s.io := rfl
@[simp] theorem State.setFb_avoid (s : State) (m : Memory) : (s.setFb m).avoid = s.avoid := rfl
@[simp] theorem State.setFb_moving (s : State) (m : Memory) : (s.setFb m).moving = s.moving := rfl
@[simp] theorem State.setFb_ret (s : State) (m : Memory) : (s.setFb m).ret = s.ret := rfl
@[simp] theorem State.setFb_fb (s : State) (m : Memory) : (s.setFb m).fb = m := rfl
@[simp] theorem State.setFb_fbDraw (s : State) (m : Memory) : (s.setFb m).fbDraw = s.fbDraw := rfl
@[simp] theorem State.setFb_draws (s : State) (m : Memory) : (s.setFb m).draws = s.draws := rfl
@[simp] theorem State.setFb_host (s : State) (m : Memory) : (s.setFb m).host = s.host := rfl

@[simp] theorem State.nextDraw_servo (s : State) : (s.nextDraw).servo = s.servo := rfl
@[simp] theorem State.nextDraw_motor (s : State) : (s.nextDraw).motor = s.motor := rfl
@[simp] theorem State.nextDraw_io (s : State) : (s.nextDraw).io = s.io := rfl
@[simp] theorem State.nextDraw_avoid (s : State) : (s.nextDraw).avoid = s.avoid := rfl
@[simp] theorem State.nextDraw_moving (s : State) : (s.nextDraw).moving = s.moving := rfl
@[simp] theorem State.nextDraw_ret (s : State) : (s.nextDraw).ret = s.ret := rfl
@[simp] theorem State.nextDraw_fb (s : State) : (s.nextDraw).fb = s.fb := rfl
@[simp] theorem State.nextDraw_fbDraw (s : State) : (s.nextDraw).fbDraw = s.fbDraw := rfl
@[simp] theorem State.nextDraw_draws (s : State) : (s.nextDraw).draws = s.draws + 1 := rfl
@[simp] theorem State.nextDraw_host (s : State) : (s.nextDraw).host = s.host := rfl

@[simp] theorem State.setHost_servo (s : State) (h : HostScript) : (s.setHost h).servo = s.servo := rfl
@[simp] theorem State.setHost_motor (s : State) (h : HostScript) : (s.setHost h).motor = s.motor := rfl
@[simp] theorem State.setHost_io (s : State) (h : HostScript) : (s.setHost h).io = s.io := rfl
@[simp] theorem State.setHost_avoid (s : State) (h : HostScript) : (s.setHost h).avoid = s.avoid := rfl
@[simp] theorem State.setHost_moving (s : State) (h : HostScript) : (s.setHost h).moving = s.moving := rfl
@[simp] theorem State.setHost_ret (s : State) (h : HostScript) : (s.setHost h).ret = s.ret := rfl
@[simp] theorem State.setHost_fb (s : State) (h : HostScript) : (s.setHost h).fb = s.fb := rfl
@[simp] theorem State.setHost_fbDraw (s : State) (h : HostScript) : (s.setHost h).fbDraw = s.fbDraw := rfl
@[simp] theorem State.setHost_draws (s : State) (h : HostScript) : (s.setHost h).draws = s.draws := rfl
@[simp] theorem State.setHost_host (s : State) (h : HostScript) : (s.setHost h).host = h := rfl

@[simp] theorem resetBlock_servo (s : State) : (resetBlock s).servo = State.reset.servo := rfl
@[simp] theorem resetBlock_motor (s : State) : (resetBlock s).motor = State.reset.motor := rfl
@[simp] theorem resetBlock_io (s : State) : (resetBlock s).io = State.reset.io := rfl
@[simp] theorem resetBlock_avoid (s : State) : (resetBlock s).avoid = State.reset.avoid := rfl
@[simp] theorem resetBlock_moving (s : State) : (resetBlock s).moving = State.reset.moving := rfl
@[simp] theorem resetBlock_ret (s : State) : (resetBlock s).ret = State.reset.ret := rfl
@[simp] theorem resetBlock_fb (s : State) : (resetBlock s).fb = State.reset.fb := rfl
@[simp] theorem resetBlock_fbDraw (s : State) : (resetBlock s).fbDraw = s.draws := rfl
@[simp] theorem resetBlock_draws (s : State) : (resetBlock s).draws = s.draws + 1 := rfl
@[simp] theorem resetBlock_host (s : State) : (resetBlock s).host = s.host := rfl

@[simp] theorem servoReadFails_parsingFailed (s : State) : (servoReadFails s).servo.parsingFailed = true := rfl
@[simp] theorem servoReadFails_motor (s : State) : (servoReadFails s).motor = s.motor := rfl
@[simp] theorem servoReadFails_io (s : State) : (servoReadFails s).io = s.io := rfl
@[simp] theorem servoReadFails_avoid (s : State) : (servoReadFails s).avoid = s.avoid := rfl
@[simp] theorem servoReadFails_moving (s : State) : (servoReadFails s).moving = s.moving := rfl
@[simp] theorem servoReadFails_ret (s : State) : (servoReadFails s).ret = s.ret := rfl
@[simp] theorem servoReadFails_fb (s : State) : (servoReadFails s).fb = s.fb := rfl
@[simp] theorem servoReadFails_fbDraw (s : State) : (servoReadFails s).fbDraw = s.fbDraw := rfl
@[simp] theorem servoReadFails_draws (s : State) : (servoReadFails s).draws = s.draws + 1 := rfl
@[simp] theorem servoReadFails_host (s : State) : (servoReadFails s).host = s.host := rfl

@[simp] theorem motorReadFails_servo (s : State) : (motorReadFails s).servo = s.servo := rfl
@[simp] theorem motorReadFails_parsingFailed (s : State) : (motorReadFails s).motor.parsingFailed = true := rfl
@[simp] theorem motorReadFails_io (s : State) : (motorReadFails s).io = s.io := rfl
@[simp] theorem motorReadFails_avoid (s : State) : (motorReadFails s).avoid = s.avoid := rfl
@[simp] theorem motorReadFails_moving (s : State) : (motorReadFails s).moving = s.moving := rfl
@[simp] theorem motorReadFails_ret (s : State) : (motorReadFails s).ret = s.ret := rfl
@[simp] theorem motorReadFails_fb (s : State) : (motorReadFails s).fb = s.fb := rfl
@[simp] theorem motorReadFails_fbDraw (s : State) : (motorReadFails s).fbDraw = s.fbDraw := rfl
@[simp] theorem motorReadFails_draws (s : State) : (motorReadFails s).draws = s.draws + 1 := rfl
@[simp] theorem motorReadFails_host (s : State) : (motorReadFails s).host = s.host := rfl

@[simp] theorem ioReadFails_servo (s : State) : (ioReadFails s).servo = s.servo := rfl
@[simp] theorem ioReadFails_motor (s : State) : (ioReadFails s).motor = s.motor := rfl
@[simp] theorem ioReadFails_parsingFailed (s : State) : (ioReadFails s).io.parsingFailed = true := rfl
@[simp] theorem ioReadFails_avoid (s : State) : (ioReadFails s).avoid = s.avoid := rfl
@[simp] theorem ioReadFails_moving (s : State) : (ioReadFails s).moving = s.moving := rfl
@[simp] theorem ioReadFails_ret (s : State) : (ioReadFails s).ret = s.ret := rfl
@[simp] theorem ioReadFails_fb (s : State) : (ioReadFails s).fb = s.fb := rfl
@[simp] theorem ioReadFails_fbDraw (s : State) : (ioReadFails s).fbDraw = s.fbDraw := rfl
@[simp] theorem ioReadFails_draws (s : State) : (ioReadFails s).draws = s.draws + 1 := rfl
@[simp] theorem ioReadFails_host (s : State) : (ioReadFails s).host = s.host := rfl

@[simp] theorem avoidReadFails_servo (s : State) : (avoidReadFails s).servo = s.servo := rfl
@[simp] theorem avoidReadFails_motor (s : State) : (avoidReadFails s).motor = s.motor := rfl
@[simp] theorem avoidReadFails_io (s : State) : (avoidReadFails s).io = s.io := rfl
@[simp] theorem avoidReadFails_parsingFailed (s : State) : (avoidReadFails s).avoid.parsingFailed = true := rfl
@[simp] theorem avoidReadFails_moving (s : State) : (avoidReadFails s).moving = s.moving := rfl
@[simp] theorem avoidReadFails_ret (s : State) : (avoidReadFails s).ret = s.ret := rfl
@[simp] theorem avoidReadFails_fb (s : State) : (avoidReadFails s).fb = s.fb := rfl
@[simp] theorem avoidReadFails_fbDraw (s : State) : (avoidReadFails s).fbDraw = s.fbDraw := rfl
@[simp] theorem avoidReadFails_draws (s : State) : (avoidReadFails s).draws = s.draws := rfl
@[simp] theorem avoidReadFails_host (s : State) : (avoidReadFails s).host = s.host := rfl

@[simp] theorem movingReadFails_servo (s : State) : (movingReadFails s).servo = s.servo := rfl
@[simp] theorem movingReadFails_motor (s : State) : (movingReadFails s).motor = s.motor := rfl
@[simp] theorem movingReadFails_io (s : State) : (movingReadFails s).io = s.io := rfl
@[simp] theorem movingReadFails_avoid (s : State) : (movingReadFails s).avoid = s.avoid := rfl
@[simp] theorem movingReadFails_parsingFailed (s : State) : (movingReadFails s).moving.parsingFailed = true := rfl
@[simp] theorem movingReadFails_ret (s : State) : (movingReadFails s).ret = s.ret := rfl
@[simp] theorem movingReadFails_fb (s : State) : (movingReadFails s).fb = s.fb := rfl
@[simp] theorem movingReadFails_fbDraw (s : State) : (movingReadFails s).fbDraw = s.fbDraw := rfl
@[simp] theorem movingReadFails_draws (s : State) : (movingReadFails s).draws = s.draws := rfl
@[simp] theorem movingReadFails_host (s : State) : (movingReadFails s).host = s.host := rfl

@[simp] theorem servoReadSucceeds_parsingFailed (s : State) (n : Byte) (rs : List Servo) : (servoReadSucceeds s n rs).servo.parsingFailed = false := rfl
@[simp] theorem servoReadSucceeds_motor (s : State) (n : Byte) (rs : List Servo) : (servoReadSucceeds s n rs).motor = s.motor := rfl
@[simp] theorem servoReadSucceeds_io (s : State) (n : Byte) (rs : List Servo) : (servoReadSucceeds s n rs).io = s.io := rfl
@[simp] theorem servoReadSucceeds_avoid (s : State) (n : Byte) (rs : List Servo) : (servoReadSucceeds s n rs).avoid = s.avoid := rfl
@[simp] theorem servoReadSucceeds_moving (s : State) (n : Byte) (rs : List Servo) : (servoReadSucceeds s n rs).moving = s.moving := rfl
@[simp] theorem servoReadSucceeds_ret (s : State) (n : Byte) (rs : List Servo) : (servoReadSucceeds s n rs).ret = s.ret := rfl
@[simp] theorem servoReadSucceeds_fb (s : State) (n : Byte) (rs : List Servo) : (servoReadSucceeds s n rs).fb = s.fb := rfl
@[simp] theorem servoReadSucceeds_fbDraw (s : State) (n : Byte) (rs : List Servo) : (servoReadSucceeds s n rs).fbDraw = s.fbDraw := rfl
@[simp] theorem servoReadSucceeds_draws (s : State) (n : Byte) (rs : List Servo) : (servoReadSucceeds s n rs).draws = s.draws := rfl
@[simp] theorem servoReadSucceeds_host (s : State) (n : Byte) (rs : List Servo) : (servoReadSucceeds s n rs).host = s.host := rfl

@[simp] theorem motorReadSucceeds_servo (s : State) (cs : List Controlled) (us : List Uncontrolled) (bs : List Brushless) : (motorReadSucceeds s cs us bs).servo = s.servo := rfl
@[simp] theorem motorReadSucceeds_parsingFailed (s : State) (cs : List Controlled) (us : List Uncontrolled) (bs : List Brushless) : (motorReadSucceeds s cs us bs).motor.parsingFailed = false := rfl
@[simp] theorem motorReadSucceeds_io (s : State) (cs : List Controlled) (us : List Uncontrolled) (bs : List Brushless) : (motorReadSucceeds s cs us bs).io = s.io := rfl
@[simp] theorem motorReadSucceeds_avoid (s : State) (cs : List Controlled) (us : List Uncontrolled) (bs : List Brushless) : (motorReadSucceeds s cs us bs).avoid = s.avoid := rfl
@[simp] theorem motorReadSucceeds_moving (s : State) (cs : List Controlled) (us : List Uncontrolled) (bs : List Brushless) : (motorReadSucceeds s cs us bs).moving = s.moving := rfl
@[simp] theorem motorReadSucceeds_ret (s : State) (cs : List Controlled) (us : List Uncontrolled) (bs : List Brushless) : (motorReadSucceeds s cs us bs).ret = s.ret := rfl
@[simp] theorem motorReadSucceeds_fb (s : State) (cs : List Controlled) (us : List Uncontrolled) (bs : List Brushless) : (motorReadSucceeds s cs us bs).fb = s.fb := rfl
@[simp] theorem motorReadSucceeds_fbDraw (s : State) (cs : List Controlled) (us : List Uncontrolled) (bs : List Brushless) : (motorReadSucceeds s cs us bs).fbDraw = s.fbDraw := rfl
@[simp] theorem motorReadSucceeds_draws (s : State) (cs : List Controlled) (us : List Uncontrolled) (bs : List Brushless) : (motorReadSucceeds s cs us bs).draws = s.draws := rfl
@[simp] theorem motorReadSucceeds_host (s : State) (cs : List Controlled) (us : List Uncontrolled) (bs : List Brushless) : (motorReadSucceeds s cs us bs).host = s.host := rfl

@[simp] theorem ioReadSucceeds_servo (s : State) (v : Byte) : (ioReadSucceeds s v).servo = s.servo := rfl
@[simp] theorem ioReadSucceeds_motor (s : State) (v : Byte) : (ioReadSucceeds s v).motor = s.motor := rfl
@[simp] theorem ioReadSucceeds_parsingFailed (s : State) (v : Byte) : (ioReadSucceeds s v).io.parsingFailed = false := rfl
@[simp] theorem ioReadSucceeds_avoid (s : State) (v : Byte) : (ioReadSucceeds s v).avoid = s.avoid := rfl
@[simp] theorem ioReadSucceeds_moving (s : State) (v : Byte) : (ioReadSucceeds s v).moving = s.moving := rfl
@[simp] theorem ioReadSucceeds_ret (s : State) (v : Byte) : (ioReadSucceeds s v).ret = s.ret := rfl
@[simp] theorem ioReadSucceeds_fb (s : State) (v : Byte) : (ioReadSucceeds s v).fb = s.fb := rfl
@[simp] theorem ioReadSucceeds_fbDraw (s : State) (v : Byte) : (ioReadSucceeds s v).fbDraw = s.fbDraw := rfl
@[simp] theorem ioReadSucceeds_draws (s : State) (v : Byte) : (ioReadSucceeds s v).draws = s.draws := rfl
@[simp] theorem ioReadSucceeds_host (s : State) (v : Byte) : (ioReadSucceeds s v).host = s.host := rfl

@[simp] theorem setRetNat_servo (s : State) (n : Nat) : (setRetNat s n).servo = s.servo := rfl
@[simp] theorem setRetNat_motor (s : State) (n : Nat) : (setRetNat s n).motor = s.motor := rfl
@[simp] theorem setRetNat_io (s : State) (n : Nat) : (setRetNat s n).io = s.io := rfl
@[simp] theorem setRetNat_avoid (s : State) (n : Nat) : (setRetNat s n).avoid = s.avoid := rfl
@[simp] theorem setRetNat_moving (s : State) (n : Nat) : (setRetNat s n).moving = s.moving := rfl
@[simp] theorem setRetNat_ret (s : State) (n : Nat) : (setRetNat s n).ret = BitVec.ofNat 16 n := rfl
@[simp] theorem setRetNat_fb (s : State) (n : Nat) : (setRetNat s n).fb = s.fb := rfl
@[simp] theorem setRetNat_fbDraw (s : State) (n : Nat) : (setRetNat s n).fbDraw = s.fbDraw := rfl
@[simp] theorem setRetNat_draws (s : State) (n : Nat) : (setRetNat s n).draws = s.draws := rfl
@[simp] theorem setRetNat_host (s : State) (n : Nat) : (setRetNat s n).host = s.host := rfl

@[simp] theorem writeFails_servo (s : State) : (writeFails s).servo = s.servo := rfl
@[simp] theorem writeFails_motor (s : State) : (writeFails s).motor = s.motor := rfl
@[simp] theorem writeFails_io (s : State) : (writeFails s).io = s.io := rfl
@[simp] theorem writeFails_avoid (s : State) : (writeFails s).avoid = s.avoid := rfl
@[simp] theorem writeFails_moving (s : State) : (writeFails s).moving = s.moving := rfl
@[simp] theorem writeFails_ret (s : State) : (writeFails s).ret = 0#16 := rfl
@[simp] theorem writeFails_fb (s : State) : (writeFails s).fb = s.fb := rfl
@[simp] theorem writeFails_fbDraw (s : State) : (writeFails s).fbDraw = s.fbDraw := rfl
@[simp] theorem writeFails_draws (s : State) : (writeFails s).draws = s.draws := rfl
@[simp] theorem writeFails_host (s : State) : (writeFails s).host = s.host := rfl

end Sys2Proof.Machine
end

