-- ==== Sys2Proof/Laws/Memory.lean ====
section
/-! SUPPORT. The frame buffer: reading after writing, the canonical form kept, and `Wrote`, which says once everything
a run of byte writes can do. -/

namespace Sys2Proof.Machine

theorem Memory.lookup_insert (m : Memory) (a b : Nat) (v : Byte) :
    Memory.lookup (Memory.insert m a v) b = if b = a then some v else Memory.lookup m b := by
  induction m with
  | nil => simp [Memory.insert, Memory.lookup, eq_comm]
  | cons c m ih =>
    simp only [Memory.insert]
    split
    · simp [Memory.lookup, eq_comm]
    · split
      · simp only [Memory.lookup]
        by_cases h : b = a
        · simp [h]
        · simp [h, Ne.symm h, show c.1 ≠ b by omega]
      · simp only [Memory.lookup, ih]
        by_cases h : b = a
        · simp [h, show c.1 ≠ a by omega]
        · simp [h]

theorem Memory.mem_insert {m : Memory} {a : Nat} {v : Byte} {c : Host.Cell} (h : c ∈ Memory.insert m a v) :
    c = (a, v) ∨ c ∈ m := by
  induction m with
  | nil => simpa [Memory.insert] using h
  | cons d m ih =>
    simp only [Memory.insert] at h
    split at h
    · simpa using h
    · split at h
      · simp only [List.mem_cons] at h ⊢
        tauto
      · simp only [List.mem_cons] at h ⊢
        rcases h with h | h
        · tauto
        · have := ih h
          tauto

theorem Memory.wf_insert {m : Memory} (a : Nat) (v : Byte) (h : Memory.wf m = true) :
    Memory.wf (Memory.insert m a v) = true := by
  induction m with
  | nil => simp [Memory.insert, Memory.wf]
  | cons c m ih =>
    simp only [Memory.wf, Bool.and_eq_true, List.all_eq_true, decide_eq_true_eq] at h
    simp only [Memory.insert]
    split
    · rename_i hac
      simp only [Memory.wf, Bool.and_eq_true, List.all_eq_true, decide_eq_true_eq, List.mem_cons]
      exact ⟨fun d hd => hd.elim (fun e => e ▸ hac) fun hm => lt_trans hac (h.1 d hm), h⟩
    · split
      · rename_i hac
        simp only [Memory.wf, Bool.and_eq_true, List.all_eq_true, decide_eq_true_eq]
        exact ⟨fun d hd => hac ▸ h.1 d hd, h.2⟩
      · simp only [Memory.wf, Bool.and_eq_true, List.all_eq_true, decide_eq_true_eq]
        refine ⟨fun d hd => ?_, ih h.2⟩
        rcases Memory.mem_insert hd with rfl | hm
        · simp only; omega
        · exact h.1 d hm

theorem State.fbByte_congr {s t : State} (hfb : t.fb = s.fb) (hd : t.fbDraw = s.fbDraw) (a : Nat) :
    t.fbByte a = s.fbByte a := by
  simp [State.fbByte, hfb, hd]

theorem fbByte_insert (s : State) (a b : Nat) (v : Byte) :
    (s.setFb (Memory.insert s.fb a v)).fbByte b = if b = a then v else s.fbByte b := by
  simp only [State.fbByte, State.setFb_fb, State.setFb_fbDraw, Memory.lookup_insert]
  split <;> simp

@[simp] theorem fbByte_setServo (s : State) (g : ServoGroup) (a : Nat) : (s.setServo g).fbByte a = s.fbByte a := rfl
@[simp] theorem fbByte_setMotor (s : State) (g : MotorGroup) (a : Nat) : (s.setMotor g).fbByte a = s.fbByte a := rfl
@[simp] theorem fbByte_setIo (s : State) (g : IoGroup) (a : Nat) : (s.setIo g).fbByte a = s.fbByte a := rfl
@[simp] theorem fbByte_setAvoid (s : State) (g : StubGroup) (a : Nat) : (s.setAvoid g).fbByte a = s.fbByte a := rfl
@[simp] theorem fbByte_setMoving (s : State) (g : StubGroup) (a : Nat) : (s.setMoving g).fbByte a = s.fbByte a := rfl
@[simp] theorem fbByte_setRet (s : State) (v : Half) (a : Nat) : (s.setRet v).fbByte a = s.fbByte a := rfl
@[simp] theorem fbByte_nextDraw (s : State) (a : Nat) : s.nextDraw.fbByte a = s.fbByte a := rfl
@[simp] theorem fbByte_setHost (s : State) (h : HostScript) (a : Nat) : (s.setHost h).fbByte a = s.fbByte a := rfl
@[simp] theorem fbByte_setRetNat (s : State) (n a : Nat) : (setRetNat s n).fbByte a = s.fbByte a := rfl
@[simp] theorem fbByte_writeFails (s : State) (a : Nat) : (writeFails s).fbByte a = s.fbByte a := rfl
@[simp] theorem fbByte_servoReadFails (s : State) (a : Nat) : (servoReadFails s).fbByte a = s.fbByte a := rfl
@[simp] theorem fbByte_motorReadFails (s : State) (a : Nat) : (motorReadFails s).fbByte a = s.fbByte a := rfl
@[simp] theorem fbByte_ioReadFails (s : State) (a : Nat) : (ioReadFails s).fbByte a = s.fbByte a := rfl
@[simp] theorem fbByte_avoidReadFails (s : State) (a : Nat) : (avoidReadFails s).fbByte a = s.fbByte a := rfl
@[simp] theorem fbByte_movingReadFails (s : State) (a : Nat) : (movingReadFails s).fbByte a = s.fbByte a := rfl

/-- The longest frame fits in `FB` (spec 20 R40, R48). -/
theorem longestFrame_le_fbSize : 67 ≤ Config.fbSize := by
  simp [Config.fbSize]

theorem memRead1_ok {s : State} {a : Nat} (h : a < Config.fbSize) : memRead1 s a = .ok (s.fbByte a) := by
  simp [memRead1, h]

theorem memRead2_ok {s : State} {a : Nat} (h : a + 1 < Config.fbSize) :
    memRead2 s a = .ok (bigEndian (s.fbByte a) (s.fbByte (a + 1))) := by
  simp [memRead2, memRead1_ok (show a < Config.fbSize by omega), memRead1_ok h, bind, Except.bind, pure, Except.pure]

/-- What writing `bytes` from index `a` on does, and all it does: those bytes of `FB` change, nothing else of the state
does, and the invariant is kept. -/
def Wrote (s t : State) (a : Nat) (bytes : List Byte) : Prop :=
  t = { s with fb := t.fb } ∧
  (∀ b, t.fbByte b = if a ≤ b then (bytes[b - a]?).getD (s.fbByte b) else s.fbByte b) ∧
  (s.Inv → t.Inv)

theorem Wrote.nil (s : State) (a : Nat) : Wrote s s a [] :=
  ⟨rfl, fun b => by simp, id⟩

theorem Wrote.trans {s t u : State} {a b : Nat} {xs ys : List Byte} (h : Wrote s t a xs) (k : Wrote t u b ys)
    (hb : b = a + xs.length) : Wrote s u a (xs ++ ys) := by
  subst hb
  refine ⟨?_, fun c => ?_, fun hs => k.2.2 (h.2.2 hs)⟩
  · have h1 := h.1
    have h2 := k.1
    rw [h1] at h2
    exact h2
  · rw [k.2.1, h.2.1]
    by_cases hac : a ≤ c
    · by_cases hxs : c - a < xs.length
      · simp [hac, show ¬ a + xs.length ≤ c by omega, List.getElem?_append_left hxs]
      · rw [List.getElem?_append_right (by omega)]
        simp [hac, show a + xs.length ≤ c by omega, show c - (a + xs.length) = c - a - xs.length by omega,
          List.getElem?_eq_none (show xs.length ≤ c - a by omega)]
    · simp [hac, show ¬ a + xs.length ≤ c by omega]

/-- `MemWrite(a, 1, v)` inside `FB` (spec 20 R42). -/
theorem memWrite1_ok (s : State) {a : Nat} (v : Byte) (h : a < Config.fbSize) :
    ∃ t, memWrite1 s a v = .ok t ∧ Wrote s t a [v] := by
  refine ⟨s.setFb (Memory.insert s.fb a v), by simp [memWrite1, h], rfl, fun b => ?_, fun hs => ⟨Memory.wf_insert a v hs.1, ?_, hs.2.2⟩⟩
  · rw [fbByte_insert]
    by_cases hba : b = a
    · simp [hba]
    · by_cases hab : a ≤ b
      · simp [hba, hab, show b - a ≠ 0 by omega]
      · simp [hba, hab]
  · intro c hc
    rcases Memory.mem_insert hc with rfl | hm
    · exact h
    · exact hs.2.1 c hm

/-- `MemWrite(a, 2, v)` inside `FB` (spec 20 R44). -/
theorem memWrite2_ok (s : State) {a : Nat} (v : Half) (h : a + 1 < Config.fbSize) :
    ∃ t, memWrite2 s a v = .ok t ∧ Wrote s t a [highByte v, lowByte v] := by
  obtain ⟨t, ht, wt⟩ := memWrite1_ok s (highByte v) (show a < Config.fbSize by omega)
  obtain ⟨u, hu, wu⟩ := memWrite1_ok t (lowByte v) h
  exact ⟨u, by simp [memWrite2, ht, hu, bind, Except.bind], wt.trans wu (by simp)⟩

theorem memWriteBytes_ok (s : State) {a : Nat} (bytes : List Byte) (h : a + bytes.length ≤ Config.fbSize) :
    ∃ t, memWriteBytes s a bytes = .ok t ∧ Wrote s t a bytes := by
  induction bytes generalizing s a with
  | nil => exact ⟨s, rfl, Wrote.nil s a⟩
  | cons v rest ih =>
    simp only [List.length_cons] at h
    obtain ⟨t, ht, wt⟩ := memWrite1_ok s v (show a < Config.fbSize by omega)
    obtain ⟨u, hu, wu⟩ := ih t (a := a + 1) (by omega)
    exact ⟨u, by simp [memWriteBytes, ht, hu, bind, Except.bind], wt.trans wu (by simp)⟩

/-- A frame written from index 0 is the frame stored (spec 20 R50). -/
theorem Wrote.frameStored {s t : State} {frame : List Byte} (h : Wrote s t 0 frame) : FrameStored s t frame := by
  intro a
  rw [h.2.1]
  by_cases ha : a < frame.length
  · simp [ha]
  · simp [ha]

end Sys2Proof.Machine
end

