-- ==== Sys2Proof/Laws/HostAccess.lean ====
section
/-! SUPPORT. The host's loads and stores: one field of a slot read after it or another was stored (spec 10 R25, R29), and
when an access faults. -/

namespace Sys2Proof.Machine

@[simp] theorem flagValue_flagOf (v : Nat) : flagValue (flagOf v) = v % 2 := by
  simp only [flagValue, flagOf, decide_eq_true_eq]
  split <;> omega

theorem Servo.get_put (r : Servo) (i : Fin Config.maxServos) (f : ServoField) (v : Nat) :
    (r.put f v).get f = v % 2 ^ (Reg.servo i f).width := by
  cases f <;> simp [Servo.put, Servo.get, Reg.width]

theorem Servo.get_put_ne (r : Servo) {f g : ServoField} (v : Nat) (h : g ≠ f) : (r.put f v).get g = r.get g := by
  cases f <;> cases g <;> simp_all [Servo.put, Servo.get]

theorem Controlled.get_put (r : Controlled) (i : Fin Config.maxControlled) (f : ControlledField) (v : Nat) :
    (r.put f v).get f = v % 2 ^ (Reg.controlled i f).width := by
  cases f <;> simp [Controlled.put, Controlled.get, Reg.width]

theorem Controlled.get_put_ne (r : Controlled) {f g : ControlledField} (v : Nat) (h : g ≠ f) :
    (r.put f v).get g = r.get g := by
  cases f <;> cases g <;> simp_all [Controlled.put, Controlled.get]

theorem Uncontrolled.get_put (r : Uncontrolled) (i : Fin Config.maxUncontrolled) (f : UncontrolledField) (v : Nat) :
    (r.put f v).get f = v % 2 ^ (Reg.uncontrolled i f).width := by
  cases f <;> simp [Uncontrolled.put, Uncontrolled.get, Reg.width]

theorem Uncontrolled.get_put_ne (r : Uncontrolled) {f g : UncontrolledField} (v : Nat) (h : g ≠ f) :
    (r.put f v).get g = r.get g := by
  cases f <;> cases g <;> simp_all [Uncontrolled.put, Uncontrolled.get]

theorem Brushless.get_put (r : Brushless) (i : Fin Config.maxBrushless) (f : BrushlessField) (v : Nat) :
    (r.put f v).get f = v % 2 ^ (Reg.brushless i f).width := by
  cases f <;> simp [Brushless.put, Brushless.get, Reg.width]

theorem Brushless.get_put_ne (r : Brushless) {f g : BrushlessField} (v : Nat) (h : g ≠ f) :
    (r.put f v).get g = r.get g := by
  cases f <;> cases g <;> simp_all [Brushless.put, Brushless.get]

@[simp] theorem writeReg_fbByte (s : State) (r : Reg) (v a : Nat) : (writeReg s r v).fbByte a = s.fbByte a := by
  cases r <;> rfl

@[simp] theorem writeReg_fb (s : State) (r : Reg) (v : Nat) : (writeReg s r v).fb = s.fb := by cases r <;> rfl
@[simp] theorem writeReg_fbDraw (s : State) (r : Reg) (v : Nat) : (writeReg s r v).fbDraw = s.fbDraw := by cases r <;> rfl
@[simp] theorem writeReg_draws (s : State) (r : Reg) (v : Nat) : (writeReg s r v).draws = s.draws := by cases r <;> rfl
@[simp] theorem writeReg_host (s : State) (r : Reg) (v : Nat) : (writeReg s r v).host = s.host := by cases r <;> rfl

theorem memRead1_error {s : State} {a : Nat} {f : Fault} (h : memRead1 s a = .error f) :
    f = .outsideFrameBuffer a ∧ Config.fbSize ≤ a := by
  unfold memRead1 at h
  split at h
  · cases h
  · injection h with h
    exact ⟨h.symm, by omega⟩

theorem memWrite1_error {s : State} {a : Nat} {v : Byte} {f : Fault} (h : memWrite1 s a v = .error f) :
    f = .outsideFrameBuffer a ∧ Config.fbSize ≤ a := by
  unfold memWrite1 at h
  split at h
  · cases h
  · injection h with h
    exact ⟨h.symm, by omega⟩

/-- A host read of a place that exists gives a value (spec 10 R29). -/
theorem hostRead_ok (s : State) {p : HostPlace} (h : p.wellFormed = true) : ∃ v, hostRead s p = .ok v := by
  cases p with
  | reg r => exact ⟨_, rfl⟩
  | byte a =>
    have ha : a < Config.fbSize := by simpa [HostPlace.wellFormed] using h
    exact ⟨(s.fbByte a).toNat, by simp [hostRead, memRead1_ok ha, bind, Except.bind, pure, Except.pure]⟩

/-- A host read faults only at a byte outside `FB`, the one it names; the place is then ill-formed. -/
theorem hostRead_error {s : State} {p : HostPlace} {f : Fault} (h : hostRead s p = .error f) :
    ∃ a, f = .outsideFrameBuffer a ∧ Config.fbSize ≤ a ∧ p.wellFormed = false ∧ p.namesByte a := by
  cases p with
  | reg r => simp [hostRead] at h
  | byte a =>
    cases hm : memRead1 s a with
    | ok v => simp [hostRead, hm, bind, Except.bind, pure, Except.pure] at h
    | error g =>
      simp only [hostRead, hm, bind, Except.bind, Except.error.injEq] at h
      obtain ⟨h1, h2⟩ := memRead1_error hm
      exact ⟨a, by rw [← h, h1], h2, by simpa [HostPlace.wellFormed] using h2, rfl⟩

/-- A host test faults only at a byte outside `FB`, the one it names; the test is then ill-formed. -/
theorem hostTest_error {s : State} {t : HostTest} {f : Fault} (h : hostTest s t = .error f) :
    ∃ a, f = .outsideFrameBuffer a ∧ Config.fbSize ≤ a ∧ t.wellFormed = false ∧ t.namesByte a := by
  cases t with
  | equals p v | below p v =>
    cases hp : hostRead s p with
    | ok x => simp [hostTest, hp, bind, Except.bind, pure, Except.pure] at h
    | error g =>
      simp only [hostTest, hp, bind, Except.bind, Except.error.injEq] at h
      exact h ▸ hostRead_error hp

/-- A run of byte writes faults only at a byte outside `FB`, one of those it was to write. -/
theorem memWriteBytes_error {s : State} {a : Nat} {bytes : List Byte} {f : Fault}
    (h : memWriteBytes s a bytes = .error f) :
    ∃ b, f = .outsideFrameBuffer b ∧ Config.fbSize ≤ b ∧ a ≤ b ∧ b < a + bytes.length := by
  induction bytes generalizing s a with
  | nil => simp [memWriteBytes] at h
  | cons v rest ih =>
    simp only [memWriteBytes, bind, Except.bind] at h
    cases hw : memWrite1 s a v with
    | error g =>
      rw [hw] at h
      simp only [Except.error.injEq] at h
      obtain ⟨h1, h2⟩ := memWrite1_error hw
      exact ⟨a, by rw [← h, h1], h2, le_rfl, by simp⟩
    | ok t =>
      rw [hw] at h
      obtain ⟨b, h1, h2, h3, h4⟩ := ih h
      exact ⟨b, h1, h2, by omega, by simp only [List.length_cons]; omega⟩

end Sys2Proof.Machine
end

