-- ==== Sys2Proof/Laws/PerInstr.lean ====
section
/-! SUPPORT. The family `EncodedOpcode`: the encoding of every instruction has the instruction's `OP` in bits 31:28
(spec 30 R81, R85). -/

namespace Sys2Proof.Laws.EncodedOpcode

/-- Bits 31:28 of the encoding are the instruction's `OP`. -/
def Statement (i : Instr) : Prop := opField (encode i) = i.opcode

theorem servoRead (src : Bool) (len : Nat) : Statement (.servoRead src len) := opField_encodeFormatR _ _ _
theorem servoWrite (dst obj : Bool) (cap : Nat) : Statement (.servoWrite dst obj cap) := opField_encodeFormatW _ _ _ _
theorem servoSize (n : Nat) : Statement (.servoSize n) := opField_encodeFormatS _ _ _ _
theorem motorRead (src : Bool) (len : Nat) : Statement (.motorRead src len) := opField_encodeFormatR _ _ _
theorem motorWrite (dst obj : Bool) (cap : Nat) : Statement (.motorWrite dst obj cap) := opField_encodeFormatW _ _ _ _
theorem motorSize (c u b : Nat) : Statement (.motorSize c u b) := opField_encodeFormatS _ _ _ _
theorem ioRead (src : Bool) (len : Nat) : Statement (.ioRead src len) := opField_encodeFormatR _ _ _
theorem ioWrite (dst obj : Bool) (cap : Nat) : Statement (.ioWrite dst obj cap) := opField_encodeFormatW _ _ _ _
theorem ioSize : Statement .ioSize := opField_encodeFormatS _ _ _ _
theorem avoidRead (src : Bool) (len : Nat) : Statement (.avoidRead src len) := opField_encodeFormatR _ _ _
theorem avoidWrite (dst obj : Bool) (cap : Nat) : Statement (.avoidWrite dst obj cap) := opField_encodeFormatW _ _ _ _
theorem movingRead (src : Bool) (len : Nat) : Statement (.movingRead src len) := opField_encodeFormatR _ _ _
theorem movingWrite (dst obj : Bool) (cap : Nat) : Statement (.movingWrite dst obj cap) := opField_encodeFormatW _ _ _ _

end Sys2Proof.Laws.EncodedOpcode
end

