-- ==== Sys2Proof/Laws/Records.lean ====
section
/-! SUPPORT. The records of a frame: what loading and storing one record does, and, once for all four kinds of record,
what the two loops do (`readRecords_spec`, `storeRecords_spec`). -/

namespace Sys2Proof.Machine

/-- The servo size formula with its numbers (spec 30 R66). -/
@[simp] theorem servoFrameSize_eq (n : Nat) : servoFrameSize n = 1 + 6 * n := rfl

/-- The motor size formula with its numbers (spec 30 R71). -/
@[simp] theorem motorFrameSize_eq (c u b : Nat) : motorFrameSize c u b = 3 + 4 * c + 2 * u + 2 * b := rfl

theorem bigEndian_toNat (hi lo : Byte) : (bigEndian hi lo).toNat = hi.toNat * 256 + lo.toNat := by
  show (hi ++ lo : BitVec (8 + 8)).toNat = _
  rw [BitVec.toNat_append, ← Nat.shiftLeft_add_eq_or_of_lt lo.isLt, Nat.shiftLeft_eq]

theorem highByte_toNat (v : Half) : (highByte v).toNat = v.toNat / 256 := by
  simp only [highByte, BitVec.extractLsb'_toNat, Nat.shiftRight_eq_div_pow]
  have := v.isLt
  omega

theorem lowByte_toNat (v : Half) : (lowByte v).toNat = v.toNat % 256 := by
  simp [lowByte, BitVec.extractLsb'_toNat]

theorem bigEndian_bytes (v : Half) : bigEndian (highByte v) (lowByte v) = v := by
  apply BitVec.eq_of_toNat_eq
  rw [bigEndian_toNat, highByte_toNat, lowByte_toNat]
  omega

theorem highByte_bigEndian (hi lo : Byte) : highByte (bigEndian hi lo) = hi := by
  apply BitVec.eq_of_toNat_eq
  rw [highByte_toNat, bigEndian_toNat]
  have := lo.isLt
  omega

theorem lowByte_bigEndian (hi lo : Byte) : lowByte (bigEndian hi lo) = lo := by
  apply BitVec.eq_of_toNat_eq
  rw [lowByte_toNat, bigEndian_toNat]
  have := lo.isLt
  omega

/-- A servo status byte as a number: the field bits at their places, 0 elsewhere (spec 30 R64, R75). -/
theorem packServoStatus_toNat (r : Servo) : (packServoStatus r).toNat =
    32 * r.commandType.toNat + 16 * r.blocked.toNat + 8 * r.blockingMode.toNat + r.color.toNat := by
  obtain ⟨_, _, _, ct, bl, bm, co⟩ := r
  simp only [packServoStatus]
  revert ct bl bm co
  decide

theorem packControlledStatus_toNat (r : Controlled) :
    (packControlledStatus r).toNat = 2 * r.finished.toNat + r.newCommand.toNat := by
  obtain ⟨_, _, _, f, n⟩ := r
  simp only [packControlledStatus]
  revert f n
  decide

theorem packUncontrolledStatus_toNat (r : Uncontrolled) :
    (packUncontrolledStatus r).toNat = 2 * r.onOff.toNat + r.rotation.toNat := by
  obtain ⟨_, o, t⟩ := r
  simp only [packUncontrolledStatus]
  revert o t
  decide

/-- Decoding an encoded servo record's fields gives the slot back (spec 30 R63, R64). -/
theorem unpackServo_pack (r : Servo) : unpackServo r.id r.position r.command (packServoStatus r) = r := by
  obtain ⟨_, _, _, ct, bl, bm, co⟩ := r
  simp only [unpackServo, packServoStatus, Servo.mk.injEq, true_and]
  revert ct bl bm co
  decide

theorem unpackControlled_pack (r : Controlled) :
    unpackControlled r.id r.wantedAngle r.wantedNbTurns (packControlledStatus r) = r := by
  obtain ⟨_, _, _, f, n⟩ := r
  simp only [unpackControlled, packControlledStatus, Controlled.mk.injEq, true_and]
  revert f n
  decide

theorem unpackUncontrolled_pack (r : Uncontrolled) : unpackUncontrolled r.id (packUncontrolledStatus r) = r := by
  obtain ⟨_, o, t⟩ := r
  simp only [unpackUncontrolled, packUncontrolledStatus, Uncontrolled.mk.injEq, true_and]
  revert o t
  decide

/-- Encoding a decoded servo status byte clears bits 7:6 and keeps the others (spec 30 R75). -/
theorem packServoStatus_unpack (id : Byte) (p c : Half) (st : Byte) :
    packServoStatus (unpackServo id p c st) = st &&& 0x3F#8 := by
  simp only [packServoStatus, unpackServo]
  revert st
  decide

theorem packControlledStatus_unpack (id angle turns st : Byte) :
    packControlledStatus (unpackControlled id angle turns st) = st &&& 0x03#8 := by
  simp only [packControlledStatus, unpackControlled]
  revert st
  decide

theorem packUncontrolledStatus_unpack (id st : Byte) :
    packUncontrolledStatus (unpackUncontrolled id st) = st &&& 0x03#8 := by
  simp only [packUncontrolledStatus, unpackUncontrolled]
  revert st
  decide

/-- What a section's codec must do, said against the frame formats of spec 30 Part A: `bytes` are a record's bytes,
`at0 s p` is the record at index `p` of `FB`. -/
structure RecordCodec.Lawful {α : Type} (c : RecordCodec α) (bytes : α → List Byte) (at0 : State → Nat → α) : Prop where
  length : ∀ r, (bytes r).length = c.size
  ident : ∀ s p, c.ident (at0 s p) = s.fbByte p
  size_pos : 0 < c.size
  load : ∀ s p, p + c.size ≤ Config.fbSize → c.load s p = .ok (at0 s p)
  store : ∀ s p r, p + c.size ≤ Config.fbSize → ∃ t, c.store s p r = .ok t ∧ Wrote s t p (bytes r)
  at_bytes : ∀ s p r, (∀ k (h : k < (bytes r).length), s.fbByte (p + k) = (bytes r)[k]) → at0 s p = r

/-- The servo record at index `p` of `FB` (spec 30 R61). -/
def servoAt (s : State) (p : Nat) : Servo :=
  unpackServo (s.fbByte p) (bigEndian (s.fbByte (p + 1)) (s.fbByte (p + 2)))
    (bigEndian (s.fbByte (p + 3)) (s.fbByte (p + 4))) (s.fbByte (p + 5))

theorem servoRecords_lawful : servoRecords.Lawful servoRecordBytes servoAt where
  length _ := rfl
  ident _ _ := rfl
  size_pos := by decide
  load s p h := by
    change p + 6 ≤ _ at h
    change loadServo s p = _
    simp [loadServo, memRead1_ok (show p < Config.fbSize by omega), memRead1_ok (show p + 5 < Config.fbSize by omega),
      memRead2_ok (show p + 1 + 1 < Config.fbSize by omega), memRead2_ok (show p + 3 + 1 < Config.fbSize by omega),
      bind, Except.bind, pure, Except.pure, servoAt, Nat.add_assoc]
  store s p r h := by
    change p + 6 ≤ _ at h
    obtain ⟨s1, e1, w1⟩ := memWrite1_ok s r.id (show p < Config.fbSize by omega)
    obtain ⟨s2, e2, w2⟩ := memWrite2_ok s1 r.position (show p + 1 + 1 < Config.fbSize by omega)
    obtain ⟨s3, e3, w3⟩ := memWrite2_ok s2 r.command (show p + 3 + 1 < Config.fbSize by omega)
    obtain ⟨s4, e4, w4⟩ := memWrite1_ok s3 (packServoStatus r) (show p + 5 < Config.fbSize by omega)
    refine ⟨s4, ?_, ((w1.trans w2 rfl).trans w3 rfl).trans w4 rfl⟩
    change storeServo s p r = _
    simp [storeServo, e1, e2, e3, e4, bind, Except.bind]
  at_bytes s p r h := by
    have h0 := h 0 (by simp [servoRecordBytes])
    have h1 := h 1 (by simp [servoRecordBytes])
    have h2 := h 2 (by simp [servoRecordBytes])
    have h3 := h 3 (by simp [servoRecordBytes])
    have h4 := h 4 (by simp [servoRecordBytes])
    have h5 := h 5 (by simp [servoRecordBytes])
    simp only [servoRecordBytes, Nat.add_zero, List.getElem_cons_zero, List.getElem_cons_succ] at h0 h1 h2 h3 h4 h5
    simp only [servoAt, h0, h1, h2, h3, h4, h5, bigEndian_bytes, unpackServo_pack]

theorem controlledRecords_lawful : controlledRecords.Lawful controlledRecordBytes controlledAt where
  length _ := rfl
  ident _ _ := rfl
  size_pos := by decide
  load s p h := by
    change p + 4 ≤ _ at h
    change loadControlled s p = _
    simp [loadControlled, memRead1_ok (show p < Config.fbSize by omega), memRead1_ok (show p + 1 < Config.fbSize by omega),
      memRead1_ok (show p + 2 < Config.fbSize by omega), memRead1_ok (show p + 3 < Config.fbSize by omega),
      bind, Except.bind, pure, Except.pure, controlledAt]
  store s p r h := by
    change p + 4 ≤ _ at h
    obtain ⟨s1, e1, w1⟩ := memWrite1_ok s r.id (show p < Config.fbSize by omega)
    obtain ⟨s2, e2, w2⟩ := memWrite1_ok s1 r.wantedAngle (show p + 1 < Config.fbSize by omega)
    obtain ⟨s3, e3, w3⟩ := memWrite1_ok s2 r.wantedNbTurns (show p + 2 < Config.fbSize by omega)
    obtain ⟨s4, e4, w4⟩ := memWrite1_ok s3 (packControlledStatus r) (show p + 3 < Config.fbSize by omega)
    refine ⟨s4, ?_, ((w1.trans w2 rfl).trans w3 rfl).trans w4 rfl⟩
    change storeControlled s p r = _
    simp [storeControlled, e1, e2, e3, e4, bind, Except.bind]
  at_bytes s p r h := by
    have h0 := h 0 (by simp [controlledRecordBytes])
    have h1 := h 1 (by simp [controlledRecordBytes])
    have h2 := h 2 (by simp [controlledRecordBytes])
    have h3 := h 3 (by simp [controlledRecordBytes])
    simp only [controlledRecordBytes, Nat.add_zero, List.getElem_cons_zero, List.getElem_cons_succ] at h0 h1 h2 h3
    simp only [controlledAt, h0, h1, h2, h3, unpackControlled_pack]

theorem uncontrolledRecords_lawful : uncontrolledRecords.Lawful uncontrolledRecordBytes uncontrolledAt where
  length _ := rfl
  ident _ _ := rfl
  size_pos := by decide
  load s p h := by
    change p + 2 ≤ _ at h
    change loadUncontrolled s p = _
    simp [loadUncontrolled, memRead1_ok (show p < Config.fbSize by omega),
      memRead1_ok (show p + 1 < Config.fbSize by omega), bind, Except.bind, pure, Except.pure, uncontrolledAt]
  store s p r h := by
    change p + 2 ≤ _ at h
    obtain ⟨s1, e1, w1⟩ := memWrite1_ok s r.id (show p < Config.fbSize by omega)
    obtain ⟨s2, e2, w2⟩ := memWrite1_ok s1 (packUncontrolledStatus r) (show p + 1 < Config.fbSize by omega)
    refine ⟨s2, ?_, w1.trans w2 rfl⟩
    change storeUncontrolled s p r = _
    simp [storeUncontrolled, e1, e2, bind, Except.bind]
  at_bytes s p r h := by
    have h0 := h 0 (by simp [uncontrolledRecordBytes])
    have h1 := h 1 (by simp [uncontrolledRecordBytes])
    simp only [uncontrolledRecordBytes, Nat.add_zero, List.getElem_cons_zero, List.getElem_cons_succ] at h0 h1
    simp only [uncontrolledAt, h0, h1, unpackUncontrolled_pack]

theorem brushlessRecords_lawful : brushlessRecords.Lawful brushlessRecordBytes brushlessAt where
  length _ := rfl
  ident _ _ := rfl
  size_pos := by decide
  load s p h := by
    change p + 2 ≤ _ at h
    change loadBrushless s p = _
    simp [loadBrushless, memRead1_ok (show p < Config.fbSize by omega),
      memRead1_ok (show p + 1 < Config.fbSize by omega), bind, Except.bind, pure, Except.pure, brushlessAt]
  store s p r h := by
    change p + 2 ≤ _ at h
    obtain ⟨s1, e1, w1⟩ := memWrite1_ok s r.id (show p < Config.fbSize by omega)
    obtain ⟨s2, e2, w2⟩ := memWrite1_ok s1 r.onOff (show p + 1 < Config.fbSize by omega)
    refine ⟨s2, ?_, w1.trans w2 rfl⟩
    change storeBrushless s p r = _
    simp [storeBrushless, e1, e2, bind, Except.bind]
  at_bytes s p r h := by
    have h0 := h 0 (by simp [brushlessRecordBytes])
    have h1 := h 1 (by simp [brushlessRecordBytes])
    simp only [brushlessRecordBytes, Nat.add_zero, List.getElem_cons_zero, List.getElem_cons_succ] at h0 h1
    simp only [brushlessAt, h0, h1]

/-- When the records of a section are acceptable (spec 40 R101 lines 10, 11; 41 R121 lines 12, 22, 30): no identifier
is 0 and, where `unique` asks for it, none repeats an earlier one or one of `placed`. -/
def SectionOk {α : Type} (ident : α → Byte) (unique : Bool) (placed records : List α) : Prop :=
  (∀ r ∈ records, ident r ≠ 0) ∧
  (unique = true → (∀ r ∈ records, ∀ q ∈ placed, ident q ≠ ident r) ∧ records.Pairwise fun q r => ident q ≠ ident r)

/-- The `n` records from index `base` of `FB` on. -/
def recordsAt {α : Type} (at0 : State → Nat → α) (size : Nat) (s : State) : Nat → Nat → List α
  | 0, _ => []
  | n + 1, base => at0 s base :: recordsAt at0 size s n (base + size)

/-- Everything the reading loop can do, for a section inside `FB`: it gives the section's records in order, after those
already placed, exactly when they are acceptable, and otherwise `fail`. -/
theorem readRecords_spec {α : Type} {c : RecordCodec α} {bytes : α → List Byte} {at0 : State → Nat → α}
    (hc : c.Lawful bytes at0) (unique : Bool) (s : State) (n base : Nat) (placed : List α)
    (h : base + c.size * n ≤ Config.fbSize) :
    (SectionOk c.ident unique placed (recordsAt at0 c.size s n base) ∧
      readRecords c unique s n base placed = .ok (some (placed ++ recordsAt at0 c.size s n base))) ∨
    (¬ SectionOk c.ident unique placed (recordsAt at0 c.size s n base) ∧
      readRecords c unique s n base placed = .ok none) := by
  induction n generalizing base placed with
  | zero => left; simp [SectionOk, recordsAt, readRecords]
  | succ n ih =>
    rw [Nat.mul_add_one] at h
    have hpos := hc.size_pos
    have hid := hc.ident s base
    simp only [readRecords, memRead1_ok (show base < Config.fbSize by omega), bind, Except.bind, recordsAt]
    by_cases h0 : s.fbByte base = 0
    · right
      refine ⟨fun hok => hok.1 (at0 s base) (by simp) (hid.trans h0), by simp [h0]⟩
    · by_cases hd : (unique && placed.any (fun r => c.ident r == s.fbByte base)) = true
      · right
        refine ⟨fun hok => ?_, by simp [hd]⟩
        simp only [Bool.and_eq_true, List.any_eq_true, beq_iff_eq] at hd
        obtain ⟨hu, q, hq, he⟩ := hd
        exact (hok.2 hu).1 (at0 s base) (by simp) q hq (he.trans hid.symm)
      · have hload := hc.load s base (by omega)
        have hrec := ih (base + c.size) (placed ++ [at0 s base]) (by omega)
        have hiff : SectionOk c.ident unique (placed ++ [at0 s base]) (recordsAt at0 c.size s n (base + c.size)) ↔
            SectionOk c.ident unique placed (at0 s base :: recordsAt at0 c.size s n (base + c.size)) := by
          simp only [Bool.and_eq_true, List.any_eq_true, beq_iff_eq, not_and, not_exists] at hd
          constructor
          · rintro ⟨a1, a2⟩
            refine ⟨?_, fun hu => ⟨?_, ?_⟩⟩
            · intro r hr
              rcases List.mem_cons.1 hr with rfl | hr
              · rw [hid]; exact h0
              · exact a1 r hr
            · intro r hr q hq
              rcases List.mem_cons.1 hr with rfl | hr
              · rw [hid]; exact hd hu q hq
              · exact (a2 hu).1 r hr q (by simp [hq])
            · exact List.pairwise_cons.2 ⟨fun r hr => (a2 hu).1 r hr _ (by simp), (a2 hu).2⟩
          · rintro ⟨a1, a2⟩
            refine ⟨fun r hr => a1 r (by simp [hr]), fun hu => ⟨?_, (List.pairwise_cons.1 (a2 hu).2).2⟩⟩
            intro r hr q hq
            rcases List.mem_append.1 hq with hq | hq
            · exact (a2 hu).1 r (by simp [hr]) q hq
            · rw [List.mem_singleton.1 hq]
              exact (List.pairwise_cons.1 (a2 hu).2).1 r hr
        simp only [h0, if_false, hd, hload, hiff] at hrec ⊢
        simpa using hrec

/-- The populated slots' number is their list's length. -/
theorem populatedCount_eq {α : Type} (ident : α → Byte) (l : List α) :
    populatedCount ident l = (populated ident l).length := by
  simp [populatedCount, populated, List.countP_eq_length_filter]

/-- Everything the storing loop can do, for a section inside `FB`: it writes the populated slots' records in order, one
after the other from `p`, and answers the index after the last. -/
theorem storeRecords_spec {α : Type} {c : RecordCodec α} {bytes : α → List Byte} {at0 : State → Nat → α}
    (hc : c.Lawful bytes at0) (l : List α) (s : State) (p : Nat)
    (h : p + c.size * (populated c.ident l).length ≤ Config.fbSize) :
    ∃ t, storeRecords c l s p = .ok (t, p + c.size * (populated c.ident l).length) ∧
      Wrote s t p ((populated c.ident l).flatMap bytes) := by
  induction l generalizing s p with
  | nil => exact ⟨s, by simp [storeRecords, populated], by simpa [populated] using Wrote.nil s p⟩
  | cons r rest ih =>
    by_cases h0 : c.ident r = 0
    · have hpop : populated c.ident (r :: rest) = populated c.ident rest := by simp [populated, h0]
      rw [hpop] at h ⊢
      obtain ⟨t, ht, wt⟩ := ih s p h
      exact ⟨t, by simp [storeRecords, h0, ht], wt⟩
    · have hpop : populated c.ident (r :: rest) = r :: populated c.ident rest := by
        simp only [populated, List.filter_cons]
        simpa using h0
      rw [hpop] at h ⊢
      simp only [List.length_cons, Nat.mul_add_one] at h ⊢
      obtain ⟨t, ht, wt⟩ := hc.store s p r (by omega)
      obtain ⟨u, hu, wu⟩ := ih t (p + c.size) (by omega)
      refine ⟨u, ?_, ?_⟩
      · simp only [storeRecords, h0, if_false, ht, bind, Except.bind, hu]
        congr 2
        omega
      · rw [List.flatMap_cons]
        exact wt.trans wu (by rw [hc.length])

end Sys2Proof.Machine
end

