-- ==== Sys2Proof/Tests/Slice0.lean ====
section
/-! SUPPORT. Tests. Expected results are the vectors of spec 95 (their labels stand in the comments), the examples of
30 R88 and 40 to 43; then, for each statement with hypotheses, a state and operands that meet them. -/

namespace Sys2Proof.Tests

open Sys2Proof.Machine

/-- The reset state with `bytes` at `FB[0]` on and, as spec 95 asks, `EE` in the four bytes after them. -/
def frameIn (bytes : List Byte) : State :=
  State.reset.setFb ((List.range (bytes.length + 4)).zip (bytes ++ List.replicate 4 0xEE#8))

/-- A servo group with the given slots first and the others empty. -/
def servosOf (slots : List Servo) (n : Byte) : ServoGroup := ⟨fillSlots 8 Servo.empty slots, n, true⟩

/-- A motor group with the given slots. -/
def motorsOf (cs : List Controlled) (us : List Uncontrolled) (bs : List Brushless) : MotorGroup :=
  ⟨fillSlots 8 Controlled.empty cs, fillSlots 8 Uncontrolled.empty us, fillSlots 8 Brushless.empty bs, true⟩

/-- The state a command leads to (the state before it if it stops). -/
def after (i : Instr) (s : State) : State :=
  match exec i s with
  | .next t => t
  | .fault _ => s
  | .refused _ => s

/-- The first `n` bytes written in `FB`. -/
def written (s : State) (n : Nat) : List Byte := (s.fb.take n).map Prod.snd

/-! ### Decoding and encoding: 30 R88, 95 section 2.9 (E-1 to E-14), and one word written out for each other operation -/

theorem test_decode_servoRead : decode 0b00001000000000000000000000000111#32 = .ok (.servoRead true 7) := by decide
theorem test_decode_servoWrite : decode 0b00010100000000000000000000001101#32 = .ok (.servoWrite false true 13) := by
  decide
theorem test_decode_servoSize : decode 0b00100000111111110000000000000000#32 = .ok (.servoSize 255) := by decide
theorem test_decode_motorRead : decode 0b01001000000000000000000000001011#32 = .ok (.motorRead true 11) := by decide
theorem test_decode_motorWrite : decode 0b01011000000000000000000000001101#32 = .ok (.motorWrite true false 13) := by
  decide
theorem test_decode_motorSize : decode 0b01100000000000110000001000000001#32 = .ok (.motorSize 3 2 1) := by decide
theorem test_decode_ioRead : decode 0b10000000000000000000000000000001#32 = .ok (.ioRead false 1) := by decide
theorem test_decode_ioWrite : decode 0b10011100000000000000000001100100#32 = .ok (.ioWrite true true 100) := by decide
theorem test_decode_ioSize : decode 0b10100000000000000000000000000000#32 = .ok .ioSize := by decide
theorem test_decode_avoidRead : decode 0b11001000000000000000000000000101#32 = .ok (.avoidRead true 5) := by decide
theorem test_decode_avoidWrite : decode 0b11011100000000000000000001100100#32 = .ok (.avoidWrite true true 100) := by
  decide
theorem test_decode_movingRead : decode 0b11101000000000000000000000000000#32 = .ok (.movingRead true 0) := by decide
theorem test_decode_movingWrite : decode 0b11111100000000001111111111111111#32 = .ok (.movingWrite true true 65535) := by
  decide

/-- E-9 to E-14. -/
theorem test_decode_reserved :
    [0x30000000#32, 0x70000000#32, 0xB0000000#32].map decode = List.replicate 3 (.error .operation) ∧
    [0x08010007#32, 0x1C010007#32, 0x20010100#32, 0xA0000001#32, 0xA1000000#32, 0x61000000#32].map decode =
      List.replicate 6 (.error .mustBeZero) := by decide

/-- The examples of 30 R88. -/
theorem test_encode : [Instr.servoRead true 7, .servoWrite true true 7, .servoSize 1, .motorSize 3 2 1, .ioSize].map
    encode = [0x08000007#32, 0x1C000007#32, 0x20010000#32, 0x60030201#32, 0xA0000000#32] := by decide

theorem test_decodeTableWord : decodeTableWord 32 0x08000007 = some (.servoRead true 7) ∧
    decodeTableWord 32 0x30000000 = none := by decide

/-! ### Well-formedness: an ill-formed term for each check -/

theorem test_illFormed_instr :
    [Instr.servoRead true 65536, .servoWrite true true 65536, .servoSize 256, .motorRead true 65536,
      .motorWrite true true 65536, .motorSize 256 0 0, .motorSize 0 256 0, .motorSize 0 0 256, .ioRead true 65536,
      .ioWrite true true 65536, .avoidRead true 65536, .avoidWrite true true 65536, .movingRead true 65536,
      .movingWrite true true 65536].map Instr.wellFormed = List.replicate 14 false := by decide

theorem test_wellFormed_instr :
    [Instr.servoRead true 65535, .servoSize 255, .motorSize 255 255 255, .ioSize, .movingWrite true true 65535].map
      Instr.wellFormed = List.replicate 5 true := by decide

theorem test_illFormed_place : (HostPlace.byte Config.fbSize).wellFormed = false := by simp [HostPlace.wellFormed]

theorem test_illFormed_test : (HostTest.equals (.byte Config.fbSize) 0).wellFormed = false ∧
    (HostTest.below (.byte Config.fbSize) 0).wellFormed = false := by simp [HostTest.wellFormed, HostPlace.wellFormed]

theorem test_illFormed_store : (HostAction.storeBytes Config.fbSize [0#8]).wellFormed = false ∧
    (HostAction.read (.byte Config.fbSize)).wellFormed = false := by
  simp [HostAction.wellFormed, HostPlace.wellFormed]

theorem test_illFormed_script : (HostScript.act (.storeBytes Config.fbSize [0#8]) .done).wellFormed = false ∧
    (HostScript.act .reset (.act (.storeBytes Config.fbSize [0#8]) .done)).wellFormed = false ∧
    (HostScript.branch (.equals (.byte Config.fbSize) 0) .done .done).wellFormed = false := by
  simp [HostScript.wellFormed, HostAction.wellFormed, HostTest.wellFormed, HostPlace.wellFormed]

/-! ### Servo: 95 sections 2.1 to 2.3 -/

/-- The slot of X1. -/
def servoX1 : Servo := ⟨3, 1000, 1000, 1, 0, 1, 5⟩

/-- The frame of X1. -/
def frameX1 : List Byte := [0x01, 0x03, 0x03, 0xE8, 0x03, 0xE8, 0x2D]

/-- S-R1 and S-R11 `ED`. -/
theorem test_servoRead :
    (after (.servoRead true 7) (frameIn frameX1)).servo = { servosOf [servoX1] 1 with parsingFailed := false } ∧
    (after (.servoRead true 7) (frameIn [1, 1, 0x12, 0x34, 0xAB, 0xCD, 0xED])).servo.servos[0] =
      ⟨1, 4660, 43981, 1, 0, 1, 5⟩ := by decide

/-- S-R2, S-R5, S-R6, S-R7, S-R8, S-R9, S-R10. -/
theorem test_servoRead_fails :
    [(true, 1, [0x02]), (true, 13, [2, 7, 0, 1, 0, 2, 0, 7, 0, 3, 0, 4, 1]), (true, 7, [1, 0, 0, 1, 0, 2, 0]),
      (true, 8, frameX1), (true, 6, frameX1), (false, 7, frameX1), (true, 0, frameX1)].map
      (fun v => (after (.servoRead v.1 v.2.1) (frameIn v.2.2)).servo.parsingFailed) = List.replicate 7 true := by decide

/-- The state before S-W5: a hole between two populated slots. -/
def holed (n : Byte) : State :=
  (frameIn []).setServo (servosOf [⟨10, 0x0102, 0x0304, 0, 0, 0, 1⟩, Servo.empty, ⟨20, 0xFFFF, 0, 1, 1, 1, 7⟩] n)

/-- S-W5 and S-W6: the hole is skipped; one byte short writes nothing. -/
theorem test_servoWrite :
    written (after (.servoWrite true true 13) (holed 3)) 13 =
      [0x02, 0x0A, 0x01, 0x02, 0x03, 0x04, 0x01, 0x14, 0xFF, 0xFF, 0x00, 0x00, 0x3F] ∧
    (after (.servoWrite true true 13) (holed 3)).ret = 13 ∧
    after (.servoWrite true true 12) (holed 3) = (holed 3).setRet 0 := by decide

/-- S-W7 (C1): the count byte counts all slots, the records stop at `nb_servos`. -/
theorem test_servoWrite_uncovered :
    written (after (.servoWrite true true 13) (holed 1)) 7 = [0x02, 0x0A, 0x01, 0x02, 0x03, 0x04, 0x01] ∧
    (after (.servoWrite true true 13) (holed 1)).ret = 7 := by decide

/-- S-S1. -/
theorem test_servoSize : [0, 2, 8, 9, 255].map (fun n => (after (.servoSize n) State.reset).ret.toNat) =
    [1, 13, 49, 55, 1531] := by decide

/-! ### Motor: 95 sections 2.4 to 2.6 -/

/-- The frame of M-R2. -/
def frameM2 : List Byte := [0x01, 0x01, 0x01, 0x05, 0x5A, 0x03, 0x02, 0x06, 0x03, 0x07, 0x01]

/-- M-R2 and M-R9 (a duplicate is accepted). -/
theorem test_motorRead :
    (after (.motorRead true 11) (frameIn frameM2)).motor =
      { motorsOf [⟨5, 90, 3, 1, 0⟩] [⟨6, 1, 1⟩] [⟨7, 1⟩] with parsingFailed := false } ∧
    (after (.motorRead true 7) (frameIn [0, 2, 0, 4, 2, 4, 1])).motor =
      { motorsOf [] [⟨4, 1, 0⟩, ⟨4, 0, 1⟩] [] with parsingFailed := false } := by decide

/-- M-R3, M-R4, M-R5, M-R6, M-R7, M-R8, M-R14. -/
theorem test_motorRead_fails :
    [(true, 2, [0, 0]), (false, 3, [0, 0, 0]), (true, 4, [0, 0, 0, 0]), (true, 10, frameM2), (true, 12, frameM2),
      (true, 7, [1, 0, 0, 0, 1, 2, 3]), (true, 5, [0, 1, 0, 0, 3]), (true, 5, [0, 0, 1, 0, 1]),
      (true, 39, [9, 0, 0])].map
      (fun v => (after (.motorRead v.1 v.2.1) (frameIn v.2.2)).motor.parsingFailed) = List.replicate 9 true := by decide

/-- The state before M-W4. -/
def motorsM4 : State := (frameIn []).setMotor
  (motorsOf (List.replicate 7 Controlled.empty ++ [⟨1, 90, 2, 0, 1⟩])
    [Uncontrolled.empty, Uncontrolled.empty, Uncontrolled.empty, ⟨2, 1, 0⟩, Uncontrolled.empty, ⟨2, 0, 1⟩]
    [Brushless.empty, ⟨9, 0x80⟩])

/-- M-W4 and M-W5. -/
theorem test_motorWrite :
    written (after (.motorWrite true true 13) motorsM4) 13 =
      [0x01, 0x02, 0x01, 0x01, 0x5A, 0x02, 0x01, 0x02, 0x02, 0x02, 0x01, 0x09, 0x80] ∧
    (after (.motorWrite true true 13) motorsM4).ret = 13 ∧
    after (.motorWrite true true 12) motorsM4 = motorsM4.setRet 0 := by decide

/-- M-S1. -/
theorem test_motorSize :
    [(0, 0, 0), (1, 0, 0), (0, 1, 0), (0, 0, 1), (3, 2, 1), (8, 8, 8)].map
      (fun v => (after (.motorSize v.1 v.2.1 v.2.2) State.reset).ret.toNat) = [3, 7, 5, 5, 21, 67] := by decide

/-! ### IO and the placeholders: 95 sections 2.7 and 2.8 -/

/-- I-R3, I-R5 and I-R4. -/
theorem test_ioRead :
    (after (.ioRead true 1) (frameIn [0xA5])).io = ⟨0xA5, false⟩ ∧
    (after (.ioRead true 2) (frameIn [0x01, 0xFF])).io = ⟨1, false⟩ ∧
    (after (.ioRead true 0) (frameIn [0x01])).io.parsingFailed = true := by decide

/-- I-W2 and I-W3. -/
theorem test_ioWrite :
    written (after (.ioWrite true true 100) ((frameIn []).setIo ⟨0xA5, true⟩)) 2 = [0xA5, 0xEE] ∧
    (after (.ioWrite true true 100) ((frameIn []).setIo ⟨0xA5, true⟩)).ret = 1 ∧
    after (.ioWrite true true 0) ((frameIn []).setIo ⟨1, true⟩) = ((frameIn []).setIo ⟨1, true⟩).setRet 0 := by decide

/-- I-S1. -/
theorem test_ioSize : (after .ioSize State.reset).ret = 1 := by decide

/-- ST-1. -/
theorem test_avoidRead : (after (.avoidRead true 5) (State.reset.setAvoid ⟨false⟩)).avoid = ⟨true⟩ := by decide

/-- ST-2. -/
theorem test_avoidWrite : after (.avoidWrite true true 100) ((frameIn []).setRet 7) = (frameIn []).setRet 0 := by decide

/-- ST-3. -/
theorem test_movingRead : (after (.movingRead true 0) (State.reset.setMoving ⟨false⟩)).moving = ⟨true⟩ := by decide

/-- ST-4. -/
theorem test_movingWrite : after (.movingWrite true true 65535) ((frameIn []).setRet 7) = (frameIn []).setRet 0 := by
  decide

/-! ### Steps -/

/-- P4 line 4 as the first command after reset. -/
theorem test_step_withFetchWord :
    (match step (State.reset.withFetchWord 32 0xA0000000) with
      | .next t => decide (t = State.reset.setRet 1)
      | .fault _ => false
      | .refused _ => false) = true := by decide

/-- E-9: a reserved word is refused by name. -/
theorem test_step_reserved :
    (match step (State.reset.withFetchWord 32 0x30000000) with
      | .next _ => false
      | .fault _ => false
      | .refused r => decide (r = .reservedCommand .operation 0x30000000#32)) = true := by decide

/-- A host write is truncated to the field's width (10 R29): 9 into the 3-bit `color`. -/
theorem test_writeReg_truncates : readReg (writeReg State.reset (.servo 2 .color) 9) (.servo 2 .color) = 1 := by decide

/-! ### Witnesses: for each statement with hypotheses, a state and operands that meet them -/

theorem witness_DecodeOfEncodeIsIdentity : (Instr.motorSize 255 0 255).wellFormed = true := by decide

theorem witness_EncodeOfDecodeIsIdentity : decode 0x0800FFFF#32 = .ok (.servoRead true 65535) := by decide

theorem witness_DecodeSelectsTheMatchingRow : ((0x2#4, 0x20000000#32, 0xFF00FFFF#32) ∈ opcodeTable ∧
    selectsRow 0x20FF0000#32 (0x2#4, 0x20000000#32, 0xFF00FFFF#32) = true) := by decide

theorem witness_ReservedWordIsRefused :
    (∀ row ∈ opcodeTable, selectsRow 0x08010007#32 row = false) ∧
    opField 0x3FFFFFFF#32 = 0x3#4 ∧ opField 0x70000000#32 = 0x7#4 ∧ opField 0xB0000001#32 = 0xB#4 :=
  ⟨by simp [opcodeTable, selectsRow], rfl, rfl, rfl⟩

theorem witness_StepRunsThePresentedCommand :
    (State.reset.withFetchWord 32 0x08000007).host = .act (.command 0x08000007#32) .done ∧
    decode 0x08000007#32 = .ok (.servoRead true 7) ∧ decodeTableWord 32 0x08000007 = some (.servoRead true 7) := by decide

theorem witness_IdleBlockStaysAsItIs : State.reset.host = .done := by decide

theorem witness_HostStoresOneRegister :
    (State.reset.setHost (.act (.storeReg (.controlled 7 .newCommand) 3) .done)).host =
      .act (.storeReg (.controlled 7 .newCommand) 3) .done ∧
    Reg.controlled 7 .finished ≠ Reg.controlled 7 .newCommand := by decide

/-- At the boundary: the last byte the spec is sure of, `FB[66]`. -/
theorem witness_HostStoresBytes :
    (State.reset.setHost (.act (.storeBytes 65 [1#8, 2#8]) .done)).host = .act (.storeBytes 65 [1#8, 2#8]) .done ∧
    65 + [1#8, 2#8].length ≤ Config.fbSize := by decide

theorem witness_HostReadsAndBranches :
    (State.reset.setHost (.act (.read (.reg .ret)) .done)).host = .act (.read (.reg .ret)) .done ∧
    (State.reset.setHost (.branch (.equals (.reg .ret) 0) .done .done)).host =
      .branch (.equals (.reg .ret) 0) .done .done ∧
    (State.reset.setHost (.branch (.below (.reg .ret) 0) .done .done)).host =
      .branch (.below (.reg .ret) 0) .done .done ∧
    66 < Config.fbSize ∧
    (State.reset.setHost (.branch (.equals (.byte 66) 0) .done .done)).host =
      .branch (.equals (.byte 66) 0) .done .done ∧
    (State.reset.setHost (.act (.read (.byte 66)) .done)).host = .act (.read (.byte 66)) .done ∧
    (State.reset.setHost (.branch (.below (.byte 66) 0) .done .done)).host =
      .branch (.below (.byte 66) 0) .done .done := by decide

theorem witness_HostResetsTheBlock :
    (State.reset.setHost (.act .reset .done)).host = .act .reset .done := by decide

theorem witness_EveryStepKeepsTheInvariant :
    (frameIn frameX1).Inv ∧ ∃ t, step ((frameIn frameX1).withFetchWord 32 0x08000007) = .next t := by
  constructor
  · unfold State.Inv
    decide
  · exact ⟨_, rfl⟩

theorem witness_OnlyIllFormedHostActionsFault :
    step (State.reset.setHost (.act (.read (.byte Config.fbSize)) .done)) =
      .fault (.outsideFrameBuffer Config.fbSize) := by
  simp [step, takeEvent, takeAction, hostRead, memRead1, outcome, bind, Except.bind]

theorem witness_CommandsTouchOnlyTheirOwnState :
    (∃ t, exec (.servoRead true 7) (frameIn frameX1) = .next t) ∧ (Instr.servoRead true 7).isRead = true ∧
    (Instr.servoSize 8).capacity = none ∧ (Instr.ioWrite true true 1).capacity = some 1 ∧
    (∃ t, exec (.ioWrite true true 1) (frameIn frameX1) = .next t ∧ t.ret.toNat ≤ 1) ∧
    (∃ t, exec (.avoidWrite true true 1) (frameIn frameX1) = .next t) :=
  ⟨⟨_, rfl⟩, rfl, rfl, rfl, ⟨after (.ioWrite true true 1) (frameIn frameX1), rfl, by decide⟩, _, rfl⟩

theorem witness_FlagsAreNeverConsulted : ∃ t, exec (.servoWrite true true 13) (holed 3) = .next t := ⟨_, rfl⟩

/-- A WRITE that writes, and the same with a capacity one byte too small. -/
theorem witness_WriteIsAllOrNothing :
    ((Instr.servoWrite true true 13).capacity = some 13 ∧
      ∃ t, exec (.servoWrite true true 13) (holed 3) = .next t ∧ 0 < t.ret.toNat) ∧
    ((Instr.servoWrite true true 12).capacity = some 12 ∧
      ∃ t, exec (.servoWrite true true 12) (holed 3) = .next t ∧ t.ret.toNat = 0) :=
  ⟨⟨rfl, after (.servoWrite true true 13) (holed 3), rfl, by decide⟩,
    rfl, after (.servoWrite true true 12) (holed 3), rfl, by decide⟩

theorem witness_ReadingIsRepeatable :
    (Instr.motorRead true 11).isRead = true ∧ ∃ t, exec (.motorRead true 11) (frameIn frameM2) = .next t ∧
      t.motor.parsingFailed = false := ⟨rfl, after (.motorRead true 11) (frameIn frameM2), rfl, by decide⟩

/-- Two states that differ in the byte after the frame and in the old contents of the group. -/
theorem witness_ReadDependsOnTheFrameAlone :
    AgreeBelow (min 7 67) (frameIn frameX1) ((frameIn (frameX1 ++ [0#8])).setServo (servosOf [] 9)) := by
  unfold AgreeBelow
  decide

theorem witness_RetNeverOverflows : (Instr.motorSize 255 255 255).wellFormed = true ∧
    (Instr.motorSize 255 255 255).isRead = false ∧
    ∃ t, exec (.motorSize 255 255 255) State.reset = .next t ∧ t.ret.toNat = 2043 := ⟨rfl, rfl, _, rfl, rfl⟩

theorem witness_ByteWriteChangesOneByte : 0 < Config.fbSize ∧ 66 < Config.fbSize ∧ 0 ≠ 66 := by decide

theorem witness_HalfAccessIsBigEndian : 65 + 1 < Config.fbSize := by decide

/-- A frame of one record, and the shortest frame; and a frame that is not valid. -/
theorem witness_ServoReadDecodesExactlyValidFrames :
    ValidServoFrame (frameIn frameX1) 7 ∧ ValidServoFrame (frameIn [0]) 1 ∧ ¬ ValidServoFrame (frameIn [2]) 1 := by
  simp only [ValidServoFrame]
  decide

theorem witness_ServoReadPostconditions :
    ∃ t, exec (.servoRead true 7) (frameIn frameX1) = .next t ∧ t.servo.parsingFailed = false :=
  ⟨after (.servoRead true 7) (frameIn frameX1), rfl, by decide⟩

/-- Capacity exactly what two records need, and one byte less. -/
theorem witness_ServoWriteEncodesTheSlots :
    1 + 6 * (holed 3).servo.populatedSlots.length ≤ 13 ∧ 12 < 1 + 6 * (holed 3).servo.populatedSlots.length := by decide

theorem witness_ServoWriteReturnValue : (holed 3).servo.Covered ∧
    0 < (after (.servoWrite true true 13) (holed 3)).ret.toNat ∧
    (after (.servoWrite true true 12) (holed 3)).ret.toNat = 0 := by
  unfold ServoGroup.Covered
  decide

theorem witness_SizeReturnsTheFormula : (Instr.servoSize 255).wellFormed = true ∧
    (Instr.motorSize 255 255 255).wellFormed = true := by decide

theorem witness_ServoRoundTripCompacts : (holed 3).servo.Covered ∧ (holed 3).servo.DistinctIds ∧
    1 + 6 * (holed 3).servo.populatedSlots.length ≤ 13 := by
  unfold ServoGroup.Covered ServoGroup.DistinctIds
  decide

theorem witness_ServoRoundTripKeepsADisciplinedCollection :
    PopulatedExactly Servo.id (servosOf [servoX1] 1).servos 1 ∧ (servosOf [servoX1] 1).DistinctIds ∧
    (servosOf [servoX1] 1).nbServos.toNat = 1 ∧ 1 + 6 * 1 ≤ 7 := by
  unfold PopulatedExactly ServoGroup.DistinctIds
  decide

theorem witness_ServoFrameRoundTrip : ValidServoFrame (frameIn frameX1) 7 :=
  witness_ServoReadDecodesExactlyValidFrames.1

theorem witness_UncoveredServoSlotSpoilsTheFrame : ¬ (holed 1).servo.Covered ∧
    ∃ t, exec (.servoWrite true true 13) (holed 1) = .next t ∧ 0 < t.ret.toNat := by
  refine ⟨?_, after (.servoWrite true true 13) (holed 1), rfl, by decide⟩
  unfold ServoGroup.Covered
  decide

theorem witness_MotorReadDecodesExactlyValidFrames :
    ValidMotorFrame (frameIn frameM2) 11 ∧ ValidMotorFrame (frameIn [0, 0, 0]) 3 ∧
    ¬ ValidMotorFrame (frameIn [0, 0, 1, 0, 1]) 5 := by
  simp only [ValidMotorFrame]
  decide

theorem witness_MotorReadPostconditions :
    ∃ t, exec (.motorRead true 11) (frameIn frameM2) = .next t ∧ t.motor.parsingFailed = false :=
  ⟨after (.motorRead true 11) (frameIn frameM2), rfl, by decide⟩

theorem witness_MotorWriteEncodesTheSlots :
    (motorFrameBytes motorsM4.motor).length ≤ 13 ∧ 12 < (motorFrameBytes motorsM4.motor).length := by decide

theorem witness_MotorWriteLeavesAValidFrame : 0 < (after (.motorWrite true true 13) motorsM4).ret.toNat ∧
    (after (.motorWrite true true 12) motorsM4).ret.toNat = 0 := by decide

theorem witness_MotorRoundTripCompacts : (motorFrameBytes motorsM4.motor).length ≤ 13 :=
  witness_MotorWriteEncodesTheSlots.1

theorem witness_MotorFrameRoundTrip : ValidMotorFrame (frameIn frameM2) 11 :=
  witness_MotorReadDecodesExactlyValidFrames.1

theorem witness_IoReadTakesTheByteVerbatim : (true = true ∧ 1 ≤ 1) ∧ (true = false ∨ (0 : Nat) = 0) := by decide

theorem witness_IoWriteWritesTheByte : (true = true ∧ 1 ≤ 1) ∧ (true = false ∨ true = false ∨ (0 : Nat) = 0) := by decide

theorem witness_IoRoundTrip : 1 ≤ 1 := by decide

/-- At the boundary: the first byte that does not exist, in a run that begins inside `FB`, and in a test. -/
theorem witness_IllFormedHostActionsFault :
    (State.reset.setHost (.act (.storeBytes 0 (List.replicate (Config.fbSize + 1) 0#8)) .done)).host =
      .act (.storeBytes 0 (List.replicate (Config.fbSize + 1) 0#8)) .done ∧
    (HostAction.storeBytes 0 (List.replicate (Config.fbSize + 1) 0#8)).wellFormed = false ∧
    (State.reset.setHost (.branch (.below (.byte Config.fbSize) 0) .done .done)).host =
      .branch (.below (.byte Config.fbSize) 0) .done .done ∧
    (HostTest.below (.byte Config.fbSize) 0).wellFormed = false :=
  ⟨rfl, by simp [HostAction.wellFormed], rfl, by simp [HostTest.wellFormed, HostPlace.wellFormed]⟩

end Sys2Proof.Tests
end

section
/-! The READ commands, each with one lemma for a frame that it accepts and one for everything else, over the
collections of `Safety.lean`; and what they decode as a function of the bytes of `FB` below `LEN` (spec 20 R48). -/

namespace Sys2Proof.Machine

/-! ### The records of a section by their number -/

theorem recordsAt_eq_map_range {α : Type} (at0 : State → Nat → α) (size : Nat) (s : State) (n base : Nat) :
    recordsAt at0 size s n base = (List.range n).map fun k => at0 s (base + size * k) := by
  induction n generalizing base with
  | zero => rfl
  | succ n ih =>
    rw [recordsAt, ih, List.range_succ_eq_map, List.map_cons, List.map_map]
    congr 1
    exact List.map_congr_left fun k _ => congrArg (at0 s) (by simp only [Nat.mul_succ]; omega)

theorem fillSlots_recordsAt {α : Type} (m : Nat) (empty : α) (at0 : State → Nat → α) (size : Nat) (s : State)
    (n base : Nat) :
    fillSlots m empty (recordsAt at0 size s n base) =
      Vector.ofFn fun i : Fin m => if i.val < n then at0 s (base + size * i.val) else empty := by
  rw [fillSlots, recordsAt_eq_map_range]
  congr 1
  funext i
  by_cases hi : i.val < n <;> simp [List.getD, hi]

/-- A section with nothing placed before it is acceptable when no identifier is 0 and, where `unique` asks for it, no
two are equal (spec 30 R65 (d), (e), R72 (d)). -/
theorem sectionOk_recordsAt_iff {α : Type} (ident : α → Byte) (unique : Bool) (at0 : State → Nat → α) (size : Nat)
    (s : State) (n base : Nat) :
    SectionOk ident unique [] (recordsAt at0 size s n base) ↔
      (∀ k, k < n → ident (at0 s (base + size * k)) ≠ 0) ∧
      (unique = true → ∀ k, k < n → ∀ j, j < k →
        ident (at0 s (base + size * j)) ≠ ident (at0 s (base + size * k))) := by
  rw [recordsAt_eq_map_range]
  refine and_congr (by simp) (imp_congr_right fun _ => ?_)
  simp only [List.not_mem_nil, false_implies, implies_true, true_and, List.pairwise_iff_getElem, List.length_map,
    List.length_range, List.getElem_map, List.getElem_range]
  exact ⟨fun h k hk j hj => h j k (by omega) hk hj, fun h j k _ hk hj => h k hk j hj⟩

theorem readRecords_of_sectionOk {α : Type} {c : RecordCodec α} {bytes : α → List Byte} {at0 : State → Nat → α}
    (hc : c.Lawful bytes at0) {unique : Bool} {s : State} {n base : Nat}
    (hfb : base + c.size * n ≤ Config.fbSize) (hok : SectionOk c.ident unique [] (recordsAt at0 c.size s n base)) :
    readRecords c unique s n base [] = .ok (some (recordsAt at0 c.size s n base)) :=
  ((readRecords_spec hc unique s n base [] hfb).resolve_right fun h => h.1 hok).2

theorem readRecords_of_not_sectionOk {α : Type} {c : RecordCodec α} {bytes : α → List Byte} {at0 : State → Nat → α}
    (hc : c.Lawful bytes at0) {unique : Bool} {s : State} {n base : Nat}
    (hfb : base + c.size * n ≤ Config.fbSize) (hno : ¬ SectionOk c.ident unique [] (recordsAt at0 c.size s n base)) :
    readRecords c unique s n base [] = .ok none :=
  ((readRecords_spec hc unique s n base [] hfb).resolve_left fun h => hno h.1).2

theorem memRead1_of_lt_longestFrame (s : State) {a : Nat} (h : a < 67) : memRead1 s a = .ok (s.fbByte a) :=
  memRead1_ok (Nat.lt_of_lt_of_le h longestFrame_le_fbSize)

/-! ### `SERVO_READ` (spec 40 R101) -/

/-- The records of the servo frame in `FB` (spec 30 R61). -/
def servoSection (s : State) : List Servo := recordsAt servoAt servoRecords.size s (s.fbByte 0).toNat 1

/-- Validity of a servo frame, its records said as the reading loop says them. -/
theorem validServoFrame_iff (s : State) (len : Nat) :
    ValidServoFrame s len ↔ len = 1 + 6 * (s.fbByte 0).toNat ∧ (s.fbByte 0).toNat ≤ 8 ∧
      SectionOk servoRecords.ident true [] (servoSection s) := by
  rw [servoSection, sectionOk_recordsAt_iff]
  constructor
  · rintro ⟨-, hlen, hn, hid, hdistinct⟩
    exact ⟨hlen, hn, hid, fun _ => hdistinct⟩
  · rintro ⟨hlen, hn, hid, hdistinct⟩
    exact ⟨by omega, hlen, hn, hid, hdistinct rfl⟩

theorem servoReadSucceeds_servoSection (s : State) :
    servoReadSucceeds s (s.fbByte 0) (servoSection s) = s.setServo (decodedServos s) := by
  rw [servoReadSucceeds, servoSection, fillSlots_recordsAt]
  rfl

theorem servoSection_fits {s : State} (hn : (s.fbByte 0).toNat ≤ 8) :
    1 + servoRecords.size * (s.fbByte 0).toNat ≤ Config.fbSize := by
  refine le_trans ?_ longestFrame_le_fbSize
  change 1 + 6 * (s.fbByte 0).toNat ≤ 67
  omega

theorem exec_servoRead_of_valid {src : Bool} {len : Nat} {s : State} (h : src = true ∧ ValidServoFrame s len) :
    exec (.servoRead src len) s = .next (s.setServo (decodedServos s)) := by
  obtain ⟨rfl, hvalid⟩ := h
  obtain ⟨hlen, hn, hok⟩ := (validServoFrame_iff s len).1 hvalid
  have hread := readRecords_of_sectionOk servoRecords_lawful (servoSection_fits hn) hok
  rw [← servoReadSucceeds_servoSection]
  simp [exec, execServoRead, outcome, memRead1_of_lt_longestFrame, bind, Except.bind, hlen, Nat.not_lt.2 hn, hread,
    servoSection]

theorem exec_servoRead_of_not_valid {src : Bool} {len : Nat} {s : State} (h : ¬ (src = true ∧ ValidServoFrame s len)) :
    exec (.servoRead src len) s = .next (servoReadFails s) := by
  rw [validServoFrame_iff] at h
  change execServoRead src len s = _
  rw [execServoRead, memRead1_of_lt_longestFrame s (by decide)]
  by_cases habsent : src = false ∨ len = 0
  · simp [habsent, outcome]
  by_cases hlen : len = 1 + 6 * (s.fbByte 0).toNat
  case neg => simp [hlen, outcome, bind, Except.bind]
  by_cases hn : (s.fbByte 0).toNat ≤ 8
  case neg => simp [← hlen, Nat.lt_of_not_le hn, outcome, bind, Except.bind]
  have hread := readRecords_of_not_sectionOk servoRecords_lawful (unique := true) (servoSection_fits hn)
    fun hok => h ⟨by simpa using (not_or.1 habsent).1, hlen, hn, hok⟩
  simp [habsent, ← hlen, Nat.not_lt.2 hn, outcome, bind, Except.bind, hread]

/-! ### `MOTOR_READ` (spec 41 R121) -/

/-- The controlled records of the motor frame in `FB` (spec 30 R67, R68). -/
def controlledSection (s : State) : List Controlled :=
  recordsAt controlledAt controlledRecords.size s (s.fbByte 0).toNat 3

/-- The uncontrolled records of the motor frame in `FB` (spec 30 R67, R69). -/
def uncontrolledSection (s : State) : List Uncontrolled :=
  recordsAt uncontrolledAt uncontrolledRecords.size s (s.fbByte 1).toNat (3 + 4 * (s.fbByte 0).toNat)

/-- The brushless records of the motor frame in `FB` (spec 30 R67, R70). -/
def brushlessSection (s : State) : List Brushless :=
  recordsAt brushlessAt brushlessRecords.size s (s.fbByte 2).toNat
    (3 + 4 * (s.fbByte 0).toNat + 2 * (s.fbByte 1).toNat)

/-- The three counts of the motor frame in `FB` are within the capacities (spec 30 R72 (c)). -/
def MotorCountsOk (s : State) : Prop :=
  (s.fbByte 0).toNat ≤ 8 ∧ (s.fbByte 1).toNat ≤ 8 ∧ (s.fbByte 2).toNat ≤ 8

/-- The three sections of the motor frame in `FB` are acceptable (spec 30 R72 (d)). -/
def MotorSectionsOk (s : State) : Prop :=
  SectionOk controlledRecords.ident false [] (controlledSection s) ∧
  SectionOk uncontrolledRecords.ident false [] (uncontrolledSection s) ∧
  SectionOk brushlessRecords.ident false [] (brushlessSection s)

/-- Validity of a motor frame, its records said as the reading loops say them. -/
theorem validMotorFrame_iff (s : State) (len : Nat) :
    ValidMotorFrame s len ↔
      len = 3 + 4 * (s.fbByte 0).toNat + 2 * (s.fbByte 1).toNat + 2 * (s.fbByte 2).toNat ∧
        MotorCountsOk s ∧ MotorSectionsOk s := by
  simp only [MotorSectionsOk, controlledSection, uncontrolledSection, brushlessSection, sectionOk_recordsAt_iff,
    Bool.false_eq_true, false_implies, and_true]
  constructor
  · rintro ⟨-, hlen, hc, hu, hb, hsections⟩
    exact ⟨hlen, ⟨hc, hu, hb⟩, hsections⟩
  · rintro ⟨hlen, ⟨hc, hu, hb⟩, hsections⟩
    exact ⟨by omega, hlen, hc, hu, hb, hsections⟩

theorem motorReadSucceeds_sections (s : State) :
    motorReadSucceeds s (controlledSection s) (uncontrolledSection s) (brushlessSection s) =
      s.setMotor (decodedMotors s) := by
  rw [motorReadSucceeds, controlledSection, uncontrolledSection, brushlessSection, fillSlots_recordsAt,
    fillSlots_recordsAt, fillSlots_recordsAt]
  rfl

theorem motorSections_fit {s : State} (hn : MotorCountsOk s) :
    3 + controlledRecords.size * (s.fbByte 0).toNat ≤ Config.fbSize ∧
    3 + 4 * (s.fbByte 0).toNat + uncontrolledRecords.size * (s.fbByte 1).toNat ≤ Config.fbSize ∧
    3 + 4 * (s.fbByte 0).toNat + 2 * (s.fbByte 1).toNat + brushlessRecords.size * (s.fbByte 2).toNat ≤
      Config.fbSize := by
  obtain ⟨hc, hu, hb⟩ := hn
  have hfb := longestFrame_le_fbSize
  refine ⟨?_, ?_, ?_⟩
  · change 3 + 4 * _ ≤ _
    omega
  · change _ + 2 * _ ≤ _
    omega
  · change _ + 2 * _ ≤ _
    omega

theorem readMotorSections_of_ok {s : State} (hn : MotorCountsOk s) (hok : MotorSectionsOk s) :
    readMotorSections s (s.fbByte 0).toNat (s.fbByte 1).toNat (s.fbByte 2).toNat =
      .ok (some (controlledSection s, uncontrolledSection s, brushlessSection s)) := by
  obtain ⟨fitC, fitU, fitB⟩ := motorSections_fit hn
  obtain ⟨okC, okU, okB⟩ := hok
  have readC := readRecords_of_sectionOk controlledRecords_lawful fitC okC
  have readU := readRecords_of_sectionOk uncontrolledRecords_lawful fitU okU
  have readB := readRecords_of_sectionOk brushlessRecords_lawful fitB okB
  simp [readMotorSections, readC, readU, readB, bind, Except.bind, controlledSection, uncontrolledSection,
    brushlessSection]

/-- The first section that is not acceptable ends the reading. -/
theorem readMotorSections_of_not_ok {s : State} (hn : MotorCountsOk s) (hno : ¬ MotorSectionsOk s) :
    readMotorSections s (s.fbByte 0).toNat (s.fbByte 1).toNat (s.fbByte 2).toNat = .ok none := by
  obtain ⟨fitC, fitU, fitB⟩ := motorSections_fit hn
  by_cases okC : SectionOk controlledRecords.ident false [] (controlledSection s)
  case neg =>
    have readC := readRecords_of_not_sectionOk controlledRecords_lawful fitC okC
    simp [readMotorSections, readC, bind, Except.bind]
  have readC := readRecords_of_sectionOk controlledRecords_lawful fitC okC
  by_cases okU : SectionOk uncontrolledRecords.ident false [] (uncontrolledSection s)
  case neg =>
    have readU := readRecords_of_not_sectionOk uncontrolledRecords_lawful fitU okU
    simp [readMotorSections, readC, readU, bind, Except.bind]
  have readU := readRecords_of_sectionOk uncontrolledRecords_lawful fitU okU
  have readB := readRecords_of_not_sectionOk brushlessRecords_lawful fitB fun okB => hno ⟨okC, okU, okB⟩
  simp [readMotorSections, readC, readU, readB, bind, Except.bind]

theorem exec_motorRead_of_valid {src : Bool} {len : Nat} {s : State} (h : src = true ∧ ValidMotorFrame s len) :
    exec (.motorRead src len) s = .next (s.setMotor (decodedMotors s)) := by
  obtain ⟨rfl, hvalid⟩ := h
  obtain ⟨hlen, hn, hok⟩ := (validMotorFrame_iff s len).1 hvalid
  have hread := readMotorSections_of_ok hn hok
  obtain ⟨hc, hu, hb⟩ := hn
  have hheader : ¬ len < 3 := by omega
  rw [← motorReadSucceeds_sections]
  simp [exec, execMotorRead, outcome, memRead1_of_lt_longestFrame, bind, Except.bind, hheader, ← hlen, Nat.not_lt.2 hc,
    Nat.not_lt.2 hu, Nat.not_lt.2 hb, hread]

theorem exec_motorRead_of_not_valid {src : Bool} {len : Nat} {s : State} (h : ¬ (src = true ∧ ValidMotorFrame s len)) :
    exec (.motorRead src len) s = .next (motorReadFails s) := by
  rw [validMotorFrame_iff] at h
  change execMotorRead src len s = _
  rw [execMotorRead, memRead1_of_lt_longestFrame s (by decide), memRead1_of_lt_longestFrame s (by decide),
    memRead1_of_lt_longestFrame s (by decide)]
  by_cases habsent : src = false ∨ len < 3
  · simp [habsent, outcome]
  by_cases hlen : len = 3 + 4 * (s.fbByte 0).toNat + 2 * (s.fbByte 1).toNat + 2 * (s.fbByte 2).toNat
  case neg => simp [hlen, outcome, bind, Except.bind]
  by_cases hn : MotorCountsOk s
  case neg =>
    have hover : 8 < (s.fbByte 0).toNat ∨ 8 < (s.fbByte 1).toNat ∨ 8 < (s.fbByte 2).toNat := by
      simp only [MotorCountsOk] at hn
      omega
    simp [← hlen, hover, outcome, bind, Except.bind]
  have hread := readMotorSections_of_not_ok hn
    fun hok => h ⟨by simpa using (not_or.1 habsent).1, hlen, hn, hok⟩
  obtain ⟨hc, hu, hb⟩ := hn
  simp [habsent, ← hlen, Nat.not_lt.2 hc, Nat.not_lt.2 hu, Nat.not_lt.2 hb, outcome, bind, Except.bind, hread]

/-! ### `IO_READ` (spec 42 R140) -/

theorem exec_ioRead_of_byte {src : Bool} {len : Nat} (s : State) (h : src = true ∧ 1 ≤ len) :
    exec (.ioRead src len) s = .next (ioReadSucceeds s (s.fbByte 0)) := by
  obtain ⟨rfl, hlen⟩ := h
  simp [exec, execIoRead, outcome, memRead1_of_lt_longestFrame, bind, Except.bind, pure, Except.pure,
    Nat.ne_of_gt hlen]

theorem exec_ioRead_of_no_byte {src : Bool} {len : Nat} (s : State) (h : ¬ (src = true ∧ 1 ≤ len)) :
    exec (.ioRead src len) s = .next (ioReadFails s) := by
  have habsent : src = false ∨ len = 0 := by
    cases src
    · exact .inl rfl
    · exact .inr (by simpa using h)
  simp [exec, execIoRead, outcome, habsent]

/-! ### States with the same first bytes of `FB` -/

theorem AgreeBelow.symm {n : Nat} {s s' : State} (h : AgreeBelow n s s') : AgreeBelow n s' s :=
  fun a ha => (h a ha).symm

theorem AgreeBelow.servoRecordAt {n k : Nat} {s s' : State} (h : AgreeBelow n s s') (hk : 1 + 6 * k + 6 ≤ n) :
    servoRecordAt s k = servoRecordAt s' k := by
  simp only [Machine.servoRecordAt, h _ (show 1 + 6 * k < n by omega), h _ (show 1 + 6 * k + 1 < n by omega),
    h _ (show 1 + 6 * k + 2 < n by omega), h _ (show 1 + 6 * k + 3 < n by omega),
    h _ (show 1 + 6 * k + 4 < n by omega), h _ (show 1 + 6 * k + 5 < n by omega)]

theorem AgreeBelow.controlledAt {n p : Nat} {s s' : State} (h : AgreeBelow n s s') (hp : p + 4 ≤ n) :
    controlledAt s p = controlledAt s' p := by
  simp only [Machine.controlledAt, h p (by omega), h (p + 1) (by omega), h (p + 2) (by omega), h (p + 3) (by omega)]

theorem AgreeBelow.uncontrolledAt {n p : Nat} {s s' : State} (h : AgreeBelow n s s') (hp : p + 2 ≤ n) :
    uncontrolledAt s p = uncontrolledAt s' p := by
  simp only [Machine.uncontrolledAt, h p (by omega), h (p + 1) (by omega)]

theorem AgreeBelow.brushlessAt {n p : Nat} {s s' : State} (h : AgreeBelow n s s') (hp : p + 2 ≤ n) :
    brushlessAt s p = brushlessAt s' p := by
  simp only [Machine.brushlessAt, h p (by omega), h (p + 1) (by omega)]

/-- A valid servo frame lies below `LEN` and below 67, so agreement there is agreement on the frame (spec 20 R48). -/
theorem AgreeBelow.servoFrame {len : Nat} {s s' : State} (h : AgreeBelow (min len 67) s s')
    (hv : ValidServoFrame s len) :
    s.fbByte 0 = s'.fbByte 0 ∧
    ∀ k, k < (s.fbByte 0).toNat → Machine.servoRecordAt s k = Machine.servoRecordAt s' k := by
  obtain ⟨hpos, hlen, hn, -, -⟩ := hv
  exact ⟨h 0 (by omega), fun k hk => h.servoRecordAt (by omega)⟩

theorem AgreeBelow.validServoFrame {len : Nat} {s s' : State} (h : AgreeBelow (min len 67) s s')
    (hv : ValidServoFrame s len) : ValidServoFrame s' len := by
  obtain ⟨hcount, hrec⟩ := h.servoFrame hv
  obtain ⟨hpos, hlen, hn, hid, hdistinct⟩ := hv
  simp only [ValidServoFrame, ← hcount]
  refine ⟨hpos, hlen, hn, fun k hk => hrec k hk ▸ hid k hk, fun k hk j hj => ?_⟩
  rw [← hrec k hk, ← hrec j (hj.trans hk)]
  exact hdistinct k hk j hj

theorem AgreeBelow.decodedServos {len : Nat} {s s' : State} (h : AgreeBelow (min len 67) s s')
    (hv : ValidServoFrame s len) : decodedServos s = decodedServos s' := by
  obtain ⟨hcount, hrec⟩ := h.servoFrame hv
  simp only [Machine.decodedServos, ← hcount]
  congr 2
  funext i
  split
  next hi => exact hrec i hi
  next => rfl

/-- The same for a valid motor frame, section by section. -/
theorem AgreeBelow.motorFrame {len : Nat} {s s' : State} (h : AgreeBelow (min len 67) s s')
    (hv : ValidMotorFrame s len) :
    (s.fbByte 0 = s'.fbByte 0 ∧ s.fbByte 1 = s'.fbByte 1 ∧ s.fbByte 2 = s'.fbByte 2) ∧
    (∀ k, k < (s.fbByte 0).toNat → Machine.controlledAt s (3 + 4 * k) = Machine.controlledAt s' (3 + 4 * k)) ∧
    (∀ k, k < (s.fbByte 1).toNat → Machine.uncontrolledAt s (3 + 4 * (s.fbByte 0).toNat + 2 * k) =
      Machine.uncontrolledAt s' (3 + 4 * (s.fbByte 0).toNat + 2 * k)) ∧
    (∀ k, k < (s.fbByte 2).toNat → Machine.brushlessAt s (3 + 4 * (s.fbByte 0).toNat + 2 * (s.fbByte 1).toNat + 2 * k) =
      Machine.brushlessAt s' (3 + 4 * (s.fbByte 0).toNat + 2 * (s.fbByte 1).toNat + 2 * k)) := by
  obtain ⟨hpos, hlen, hc, hu, hb, -⟩ := hv
  exact ⟨⟨h 0 (by omega), h 1 (by omega), h 2 (by omega)⟩, fun k hk => h.controlledAt (by omega),
    fun k hk => h.uncontrolledAt (by omega), fun k hk => h.brushlessAt (by omega)⟩

theorem AgreeBelow.validMotorFrame {len : Nat} {s s' : State} (h : AgreeBelow (min len 67) s s')
    (hv : ValidMotorFrame s len) : ValidMotorFrame s' len := by
  obtain ⟨⟨h0, h1, h2⟩, hrecC, hrecU, hrecB⟩ := h.motorFrame hv
  obtain ⟨hpos, hlen, hc, hu, hb, hidC, hidU, hidB⟩ := hv
  simp only [ValidMotorFrame, ← h0, ← h1, ← h2]
  exact ⟨hpos, hlen, hc, hu, hb, fun k hk => hrecC k hk ▸ hidC k hk, fun k hk => hrecU k hk ▸ hidU k hk,
    fun k hk => hrecB k hk ▸ hidB k hk⟩

theorem AgreeBelow.decodedMotors {len : Nat} {s s' : State} (h : AgreeBelow (min len 67) s s')
    (hv : ValidMotorFrame s len) : decodedMotors s = decodedMotors s' := by
  obtain ⟨⟨h0, h1, h2⟩, hrecC, hrecU, hrecB⟩ := h.motorFrame hv
  simp only [Machine.decodedMotors, ← h0, ← h1, ← h2]
  congr 2 <;> funext i <;> split
  next hi => exact hrecC i hi
  next => rfl
  next hi => exact hrecU i hi
  next => rfl
  next hi => exact hrecB i hi
  next => rfl

/-! ### What a READ depends on -/

theorem exec_servoRead_agree (src : Bool) {len : Nat} {s s' : State} (h : AgreeBelow (min len 67) s s') :
    ∃ t t', exec (.servoRead src len) s = .next t ∧ exec (.servoRead src len) s' = .next t' ∧
      t.servo.parsingFailed = t'.servo.parsingFailed ∧ (t.servo.parsingFailed = false → t.servo = t'.servo) := by
  by_cases hv : src = true ∧ ValidServoFrame s len
  · have hv' : src = true ∧ ValidServoFrame s' len := ⟨hv.1, h.validServoFrame hv.2⟩
    exact ⟨_, _, exec_servoRead_of_valid hv, exec_servoRead_of_valid hv', rfl, fun _ => h.decodedServos hv.2⟩
  · have hv' : ¬ (src = true ∧ ValidServoFrame s' len) := fun k => hv ⟨k.1, h.symm.validServoFrame k.2⟩
    exact ⟨_, _, exec_servoRead_of_not_valid hv, exec_servoRead_of_not_valid hv', rfl, by simp⟩

theorem exec_motorRead_agree (src : Bool) {len : Nat} {s s' : State} (h : AgreeBelow (min len 67) s s') :
    ∃ t t', exec (.motorRead src len) s = .next t ∧ exec (.motorRead src len) s' = .next t' ∧
      t.motor.parsingFailed = t'.motor.parsingFailed ∧ (t.motor.parsingFailed = false → t.motor = t'.motor) := by
  by_cases hv : src = true ∧ ValidMotorFrame s len
  · have hv' : src = true ∧ ValidMotorFrame s' len := ⟨hv.1, h.validMotorFrame hv.2⟩
    exact ⟨_, _, exec_motorRead_of_valid hv, exec_motorRead_of_valid hv', rfl, fun _ => h.decodedMotors hv.2⟩
  · have hv' : ¬ (src = true ∧ ValidMotorFrame s' len) := fun k => hv ⟨k.1, h.symm.validMotorFrame k.2⟩
    exact ⟨_, _, exec_motorRead_of_not_valid hv, exec_motorRead_of_not_valid hv', rfl, by simp⟩

theorem exec_ioRead_agree (src : Bool) {len : Nat} {s s' : State} (h : AgreeBelow (min len 67) s s') :
    ∃ t t', exec (.ioRead src len) s = .next t ∧ exec (.ioRead src len) s' = .next t' ∧
      t.io.parsingFailed = t'.io.parsingFailed ∧ (t.io.parsingFailed = false → t.io = t'.io) := by
  by_cases hv : src = true ∧ 1 ≤ len
  · have h0 : s.fbByte 0 = s'.fbByte 0 := h 0 (by omega)
    exact ⟨_, _, exec_ioRead_of_byte s hv, exec_ioRead_of_byte s' hv, rfl, fun _ => by simp [ioReadSucceeds, h0]⟩
  · exact ⟨_, _, exec_ioRead_of_no_byte s hv, exec_ioRead_of_no_byte s' hv, rfl, by simp⟩

/-- Settles O22: each READ accepts a frame by the bytes below `LEN` and 67 alone, and decodes it from them alone. -/
theorem readDependsOnTheFrameAlone : Obligations.ReadDependsOnTheFrameAlone :=
  fun src _ _ _ h => ⟨exec_servoRead_agree src h, exec_motorRead_agree src h, exec_ioRead_agree src h⟩

end Sys2Proof.Machine
end

section
/-! The step that takes a command word of the host's script (spec 00 R4, 30 R81; log 1, log 10). -/

namespace Sys2Proof.Machine

theorem step_of_command {s : State} {w : CmdWord} {rest : HostScript} (h : s.host = .act (.command w) rest) :
    step s = takeCommand w (s.setHost rest) := by
  simp [step, takeEvent, h, takeAction]

theorem takeCommand_of_decode {w : CmdWord} {i : Instr} (h : decode w = .ok i) (s : State) :
    takeCommand w s = exec i s := by
  simp [takeCommand, h]

theorem decode_tableWord {nbits w : Nat} {i : Instr} (h : decodeTableWord nbits w = some i) :
    decode (tableWord nbits w) = .ok i := by
  rw [decodeTableWord] at h
  split at h
  next j hj => rw [hj, Option.some.inj h]
  next => cases h

/-- The script that presents a word is moved on to the state's own script before the word runs. -/
theorem step_withFetchWord (s : State) (nbits w : Nat) :
    step (s.withFetchWord nbits w) = takeCommand (tableWord nbits w) s :=
  step_of_command (State.setHost_host _ _)

/-- Settles O6: a command word at the head of the script is taken by `takeCommand`, which runs what it decodes to. -/
theorem stepRunsThePresentedCommand : Obligations.StepRunsThePresentedCommand := by
  refine ⟨fun s w rest => step_of_command, fun s w rest i h hi => ?_, fun s w i h => ?_⟩
  · rw [step_of_command h, takeCommand_of_decode hi]
  · rw [step_withFetchWord, takeCommand_of_decode (decode_tableWord h)]

end Sys2Proof.Machine
end

section
/-! The host's own steps: reads, branches, and stores of one register field or of a run of bytes (spec 10 R25, R29,
30 R89; log 1, log 7). -/

namespace Sys2Proof.Machine

theorem step_of_action {s : State} {a : HostAction} {rest : HostScript} (h : s.host = .act a rest) :
    step s = takeAction a (s.setHost rest) := by
  simp [step, takeEvent, h]

theorem step_of_branch {s : State} {t : HostTest} {yes no : HostScript} (h : s.host = .branch t yes no) :
    step s = takeBranch t yes no s := by
  simp [step, takeEvent, h]

/-! ### Reads and branches -/

theorem hostRead_byte_ok (s : State) {a : Nat} (h : a < Config.fbSize) :
    hostRead s (.byte a) = .ok (s.fbByte a).toNat := by
  simp [hostRead, memRead1_ok h, bind, Except.bind, pure, Except.pure]

theorem step_of_read {s : State} {p : HostPlace} {rest : HostScript} (hp : p.wellFormed = true)
    (h : s.host = .act (.read p) rest) : step s = .next (s.setHost rest) := by
  obtain ⟨v, hv⟩ := hostRead_ok (s.setHost rest) hp
  simp [step_of_action h, takeAction, hv, outcome, bind, Except.bind, pure, Except.pure]

theorem step_of_branch_equals {s : State} {p : HostPlace} {v x : Nat} {yes no : HostScript}
    (hx : hostRead s p = .ok x) (h : s.host = .branch (.equals p v) yes no) :
    step s = .next (s.setHost (if x = v then yes else no)) := by
  simp [step_of_branch h, takeBranch, hostTest, hx, outcome, bind, Except.bind, pure, Except.pure]

theorem step_of_branch_below {s : State} {p : HostPlace} {v x : Nat} {yes no : HostScript}
    (hx : hostRead s p = .ok x) (h : s.host = .branch (.below p v) yes no) :
    step s = .next (s.setHost (if x < v then yes else no)) := by
  simp [step_of_branch h, takeBranch, hostTest, hx, outcome, bind, Except.bind, pure, Except.pure]

/-- Settles O10: a place that exists gives the host a value, and the read and the two tests go by that value alone. -/
theorem hostReadsAndBranches : Obligations.HostReadsAndBranches :=
  ⟨fun _ _ _ => step_of_read rfl,
    fun _ _ _ ha => step_of_read (decide_eq_true ha),
    fun _ _ _ _ _ => step_of_branch_equals rfl,
    fun _ _ _ _ _ => step_of_branch_below rfl,
    fun s _ _ _ _ ha => step_of_branch_equals (hostRead_byte_ok s ha),
    fun s _ _ _ _ ha => step_of_branch_below (hostRead_byte_ok s ha)⟩

/-! ### Stores of bytes -/

theorem Wrote.fbByte_inside {s t : State} {a : Nat} {bytes : List Byte} (h : Wrote s t a bytes) {k : Nat}
    (hk : k < bytes.length) : t.fbByte (a + k) = bytes[k] := by
  obtain ⟨-, hbytes, -⟩ := h
  simp [hbytes, hk]

theorem Wrote.fbByte_outside {s t : State} {a : Nat} {bytes : List Byte} (h : Wrote s t a bytes) {b : Nat}
    (hb : b < a ∨ a + bytes.length ≤ b) : t.fbByte b = s.fbByte b := by
  obtain ⟨-, hbytes, -⟩ := h
  rw [hbytes]
  rcases hb with hlow | hhigh
  · rw [if_neg (Nat.not_le.2 hlow)]
  · rw [List.getElem?_eq_none (by omega)]
    simp

/-- Settles O9: the step is the run of byte writes, and `Wrote` says everything such a run does. -/
theorem hostStoresBytes : Obligations.HostStoresBytes := by
  intro s first bytes rest h hfb
  obtain ⟨t, ht, hwrote⟩ := memWriteBytes_ok (s.setHost rest) bytes hfb
  refine ⟨t, ?_, hwrote.1, fun k hk => hwrote.fbByte_inside hk, fun a ha => hwrote.fbByte_outside ha⟩
  simp [step_of_action h, takeAction, ht, outcome]

/-! ### Stores of one register field -/

/-- One field of one slot of an array stored: every other field of the array reads as before, whether it is another
field of that slot or a field of another slot. -/
theorem get_set_of_ne {α φ : Type} {n : Nat} (get : α → φ → Nat) (slots : Vector α n) (x : α) {i j : Fin n} {f g : φ}
    (hx : g ≠ f → get x g = get slots[i] g) (h : j = i → g ≠ f) : get (slots.set i x)[j] g = get slots[j] g := by
  by_cases hij : j = i
  · subst hij
    simpa using hx (h rfl)
  · have hne : i.val ≠ j.val := fun hval => hij (Fin.ext hval.symm)
    simp [hne]

@[simp] theorem readReg_setHost (s : State) (h : HostScript) (r : Reg) : readReg (s.setHost h) r = readReg s r := by
  cases r <;> rfl

theorem readReg_writeReg_same (s : State) (r : Reg) (v : Nat) : readReg (writeReg s r v) r = v % 2 ^ r.width := by
  cases r with
  | servo i f => simp [readReg, writeReg, Servo.get_put _ i]
  | controlled i f => simp [readReg, writeReg, Controlled.get_put _ i]
  | uncontrolled i f => simp [readReg, writeReg, Uncontrolled.get_put _ i]
  | brushless i f => simp [readReg, writeReg, Brushless.get_put _ i]
  | _ => simp [readReg, writeReg, Reg.width]

/-- No two register fields share a place (spec 10 R25): fields of one array by `get_set_of_ne`, all others by their places. -/
theorem readReg_writeReg_ne (s : State) {r r' : Reg} (v : Nat) (h : r' ≠ r) :
    readReg (writeReg s r v) r' = readReg s r' := by
  cases r with
  | servo i f =>
    cases r' with
    | servo j g => exact get_set_of_ne Servo.get _ _ (Servo.get_put_ne _ v) (by rintro rfl rfl; exact h rfl)
    | _ => rfl
  | controlled i f =>
    cases r' with
    | controlled j g =>
      exact get_set_of_ne Controlled.get _ _ (Controlled.get_put_ne _ v) (by rintro rfl rfl; exact h rfl)
    | _ => rfl
  | uncontrolled i f =>
    cases r' with
    | uncontrolled j g =>
      exact get_set_of_ne Uncontrolled.get _ _ (Uncontrolled.get_put_ne _ v) (by rintro rfl rfl; exact h rfl)
    | _ => rfl
  | brushless i f =>
    cases r' with
    | brushless j g =>
      exact get_set_of_ne Brushless.get _ _ (Brushless.get_put_ne _ v) (by rintro rfl rfl; exact h rfl)
    | _ => rfl
  | nbServos | servoParsingFailed | motorParsingFailed | tirette | ioParsingFailed | avoidParsingFailed
  | movingParsingFailed | ret =>
    cases r' <;> simp_all [readReg, writeReg]

/-- Settles O8: the step is the store, which the field reads back truncated and no other field or byte notices. -/
theorem hostStoresOneRegister : Obligations.HostStoresOneRegister := by
  intro s r v rest h
  refine ⟨writeReg (s.setHost rest) r v, step_of_action h, readReg_writeReg_same _ r v, fun r' hr => ?_, by simp, by simp⟩
  rw [readReg_writeReg_ne _ v hr, readReg_setHost]

end Sys2Proof.Machine
end

section
/-! The WRITE commands: when one writes (`Writes`), the frame it then stores and its length in `RET`, and what it does
otherwise (spec 20 R50). -/

namespace Sys2Proof.Machine

/-! ### The sections of a frame, stored -/

theorem length_flatMap_bytes {α : Type} {c : RecordCodec α} {bytes : α → List Byte} {at0 : State → Nat → α}
    (hc : c.Lawful bytes at0) (l : List α) : (l.flatMap bytes).length = c.size * l.length := by
  simp [List.length_flatMap, hc.length, Nat.mul_comm]

/-- The records of a section stored, the index after them said by the length of their bytes. -/
theorem storeRecords_ok {α : Type} {c : RecordCodec α} {bytes : α → List Byte} {at0 : State → Nat → α}
    (hc : c.Lawful bytes at0) (l : List α) (s : State) {p : Nat}
    (h : p + ((populated c.ident l).flatMap bytes).length ≤ Config.fbSize) :
    ∃ t, storeRecords c l s p = .ok (t, p + ((populated c.ident l).flatMap bytes).length) ∧
      Wrote s t p ((populated c.ident l).flatMap bytes) := by
  rw [length_flatMap_bytes hc] at h ⊢
  exact storeRecords_spec hc l s p h

/-- The records `SERVO_WRITE` emits, as bytes (spec 40 R103). -/
def emittedBytes (g : ServoGroup) : List Byte := g.emitted.flatMap servoRecordBytes

/-- The controlled section that `MOTOR_WRITE` writes (spec 41 R123). -/
def controlledBytes (g : MotorGroup) : List Byte :=
  (populated Controlled.id g.controlled.toList).flatMap controlledRecordBytes

/-- The uncontrolled section that `MOTOR_WRITE` writes (spec 41 R123). -/
def uncontrolledBytes (g : MotorGroup) : List Byte :=
  (populated Uncontrolled.id g.uncontrolled.toList).flatMap uncontrolledRecordBytes

/-- The brushless section that `MOTOR_WRITE` writes (spec 41 R123). -/
def brushlessBytes (g : MotorGroup) : List Byte :=
  (populated Brushless.id g.brushless.toList).flatMap brushlessRecordBytes

/-- The three count bytes of `MOTOR_WRITE` (spec 41 R123). -/
def motorHeader (g : MotorGroup) : List Byte :=
  [BitVec.ofNat 8 (populated Controlled.id g.controlled.toList).length,
    BitVec.ofNat 8 (populated Uncontrolled.id g.uncontrolled.toList).length,
    BitVec.ofNat 8 (populated Brushless.id g.brushless.toList).length]

theorem servoFrameBytes_eq (g : ServoGroup) :
    servoFrameBytes g = [BitVec.ofNat 8 g.populatedSlots.length] ++ emittedBytes g := rfl

theorem motorFrameBytes_eq (g : MotorGroup) :
    motorFrameBytes g = motorHeader g ++ controlledBytes g ++ uncontrolledBytes g ++ brushlessBytes g := rfl

theorem storeRecords_emitted (g : ServoGroup) (s : State) {p : Nat} (h : p + (emittedBytes g).length ≤ Config.fbSize) :
    ∃ t, storeRecords servoRecords (g.servos.toList.take (min g.nbServos.toNat Config.maxServos)) s p =
      .ok (t, p + (emittedBytes g).length) ∧ Wrote s t p (emittedBytes g) :=
  storeRecords_ok servoRecords_lawful _ s h

theorem storeRecords_controlled (g : MotorGroup) (s : State) {p : Nat}
    (h : p + (controlledBytes g).length ≤ Config.fbSize) :
    ∃ t, storeRecords controlledRecords g.controlled.toList s p = .ok (t, p + (controlledBytes g).length) ∧
      Wrote s t p (controlledBytes g) :=
  storeRecords_ok controlledRecords_lawful _ s h

theorem storeRecords_uncontrolled (g : MotorGroup) (s : State) {p : Nat}
    (h : p + (uncontrolledBytes g).length ≤ Config.fbSize) :
    ∃ t, storeRecords uncontrolledRecords g.uncontrolled.toList s p = .ok (t, p + (uncontrolledBytes g).length) ∧
      Wrote s t p (uncontrolledBytes g) :=
  storeRecords_ok uncontrolledRecords_lawful _ s h

theorem storeRecords_brushless (g : MotorGroup) (s : State) {p : Nat}
    (h : p + (brushlessBytes g).length ≤ Config.fbSize) :
    ∃ t, storeRecords brushlessRecords g.brushless.toList s p = .ok (t, p + (brushlessBytes g).length) ∧
      Wrote s t p (brushlessBytes g) :=
  storeRecords_ok brushlessRecords_lawful _ s h

/-! ### How long a frame is -/

/-- The length of a servo frame is the size formula of its records (spec 30 R66). -/
theorem servoFrameBytes_length (g : ServoGroup) : (servoFrameBytes g).length = 1 + 6 * g.emitted.length := by
  rw [servoFrameBytes, List.length_cons, length_flatMap_bytes servoRecords_lawful, Nat.add_comm]
  rfl

/-- The length of a motor frame is the size formula of its three counts (spec 30 R71). -/
theorem motorFrameBytes_length (g : MotorGroup) : (motorFrameBytes g).length =
    motorFrameSize (populated Controlled.id g.controlled.toList).length
      (populated Uncontrolled.id g.uncontrolled.toList).length (populated Brushless.id g.brushless.toList).length := by
  simp only [motorFrameBytes, List.length_append, length_flatMap_bytes controlledRecords_lawful,
    length_flatMap_bytes uncontrolledRecords_lawful, length_flatMap_bytes brushlessRecords_lawful]
  rfl

theorem length_populated_le {α : Type} (ident : α → Byte) {n : Nat} (slots : Vector α n) :
    (populated ident slots.toList).length ≤ n :=
  (List.length_filter_le _ _).trans_eq slots.length_toList

theorem servoFrameBytes_length_le (g : ServoGroup) : (servoFrameBytes g).length ≤ 49 := by
  have hemitted : g.emitted.length ≤ (g.servos.toList.take (min g.nbServos.toNat 8)).length := List.length_filter_le _ _
  rw [servoFrameBytes_length]
  rw [List.length_take] at hemitted
  omega

theorem motorFrameBytes_length_le (g : MotorGroup) : (motorFrameBytes g).length ≤ 67 := by
  have hc : _ ≤ 8 := length_populated_le Controlled.id g.controlled
  have hu : _ ≤ 8 := length_populated_le Uncontrolled.id g.uncontrolled
  have hb : _ ≤ 8 := length_populated_le Brushless.id g.brushless
  rw [motorFrameBytes_length, motorFrameSize_eq]
  omega

/-- No frame is longer than 67 bytes (spec 20 R48). -/
theorem frameWrittenBy_length_le (i : Instr) (s : State) : (frameWrittenBy i s).length ≤ 67 := by
  cases i with
  | servoWrite => exact (servoFrameBytes_length_le s.servo).trans (by decide)
  | motorWrite => exact motorFrameBytes_length_le s.motor
  | _ => simp [frameWrittenBy]

/-! ### A WRITE that writes -/

theorem exec_servoWrite_of_fits {cap : Nat} {s : State} (h : 1 + 6 * s.servo.populatedSlots.length ≤ cap) :
    ∃ t, exec (.servoWrite true true cap) s = .next (setRetNat t (servoFrameBytes s.servo).length) ∧
      Wrote s t 0 (servoFrameBytes s.servo) := by
  have hlen := servoFrameBytes_length_le s.servo
  have hfb := longestFrame_le_fbSize
  rw [servoFrameBytes_eq, List.length_append, List.length_singleton] at hlen ⊢
  obtain ⟨t, ht, wt⟩ := memWrite1_ok s (a := 0) (BitVec.ofNat 8 s.servo.populatedSlots.length) (by omega)
  obtain ⟨u, hu, wu⟩ := storeRecords_emitted s.servo t (p := 1) (by omega)
  refine ⟨u, ?_, wt.trans wu rfl⟩
  have hcount : populatedCount Servo.id s.servo.servos.toList = s.servo.populatedSlots.length := populatedCount_eq _ _
  simp [exec, execServoWrite, hcount, Nat.not_lt.2 h, show cap ≠ 0 by omega, ht, hu, outcome, bind, Except.bind, pure,
    Except.pure]

/-- The header of a motor frame stored, one count byte after the other (spec 41 R123). -/
theorem memWrite_motorHeader (g : MotorGroup) (s : State) :
    ∃ t0 t1 t, memWrite1 s 0 (BitVec.ofNat 8 (populated Controlled.id g.controlled.toList).length) = .ok t0 ∧
      memWrite1 t0 1 (BitVec.ofNat 8 (populated Uncontrolled.id g.uncontrolled.toList).length) = .ok t1 ∧
      memWrite1 t1 2 (BitVec.ofNat 8 (populated Brushless.id g.brushless.toList).length) = .ok t ∧
      Wrote s t 0 (motorHeader g) := by
  have hfb := longestFrame_le_fbSize
  obtain ⟨t0, h0, w0⟩ := memWrite1_ok s (a := 0)
    (BitVec.ofNat 8 (populated Controlled.id g.controlled.toList).length) (by omega)
  obtain ⟨t1, h1, w1⟩ := memWrite1_ok t0 (a := 1)
    (BitVec.ofNat 8 (populated Uncontrolled.id g.uncontrolled.toList).length) (by omega)
  obtain ⟨t, h2, w2⟩ := memWrite1_ok t1 (a := 2)
    (BitVec.ofNat 8 (populated Brushless.id g.brushless.toList).length) (by omega)
  exact ⟨t0, t1, t, h0, h1, h2, (w0.trans w1 rfl).trans w2 rfl⟩

theorem exec_motorWrite_of_fits {cap : Nat} {s : State} (h : (motorFrameBytes s.motor).length ≤ cap) :
    ∃ t, exec (.motorWrite true true cap) s = .next (setRetNat t (motorFrameBytes s.motor).length) ∧
      Wrote s t 0 (motorFrameBytes s.motor) := by
  have hlen := motorFrameBytes_length_le s.motor
  have hfb := longestFrame_le_fbSize
  have hheader : (motorHeader s.motor).length = 3 := rfl
  simp only [motorFrameBytes_eq, List.length_append, hheader] at hlen
  obtain ⟨t0, t1, t2, h0, h1, h2, w2⟩ := memWrite_motorHeader s.motor s
  obtain ⟨tc, hc, wc⟩ := storeRecords_controlled s.motor t2 (p := 3) (by omega)
  obtain ⟨tu, hu, wu⟩ := storeRecords_uncontrolled s.motor tc (p := 3 + (controlledBytes s.motor).length) (by omega)
  obtain ⟨t, hb, wb⟩ := storeRecords_brushless s.motor tu
    (p := 3 + (controlledBytes s.motor).length + (uncontrolledBytes s.motor).length) (by omega)
  refine ⟨t, ?_, ((w2.trans wc rfl).trans wu ?_).trans wb ?_⟩
  · rw [motorFrameBytes_length, motorFrameSize_eq] at h
    simp [exec, execMotorWrite, populatedCount_eq, motorFrameBytes_length, Nat.not_lt.2 h, show cap ≠ 0 by omega, h0,
      h1, h2, hc, hu, hb, outcome, bind, Except.bind, pure, Except.pure]
  · simp [hheader]
  · simp [hheader, Nat.add_assoc]

theorem exec_ioWrite_of_fits {cap : Nat} (s : State) (h : 1 ≤ cap) :
    ∃ t, exec (.ioWrite true true cap) s = .next (setRetNat t 1) ∧ Wrote s t 0 [s.io.tirette] := by
  obtain ⟨t, ht, wt⟩ := memWrite1_ok s (a := 0) s.io.tirette (Nat.lt_of_lt_of_le (by decide) longestFrame_le_fbSize)
  refine ⟨t, ?_, wt⟩
  simp [exec, execIoWrite, Nat.ne_of_gt h, ht, outcome, bind, Except.bind, pure, Except.pure]

/-- The WRITE command writes its frame: both objects are there and the frame fits in `CAP` (spec 40 R103, 41 R123,
42 R141). No other command does, nor a placeholder WRITE (43 R151, R153). -/
def Writes (i : Instr) (s : State) : Prop :=
  match i with
  | .servoWrite dst obj cap => dst = true ∧ obj = true ∧ 1 + 6 * s.servo.populatedSlots.length ≤ cap
  | .motorWrite dst obj cap => dst = true ∧ obj = true ∧ (motorFrameBytes s.motor).length ≤ cap
  | .ioWrite dst obj cap => dst = true ∧ obj = true ∧ 1 ≤ cap
  | _ => False

theorem exec_of_writes {i : Instr} {s : State} (h : Writes i s) :
    ∃ t, exec i s = .next (setRetNat t (frameWrittenBy i s).length) ∧ Wrote s t 0 (frameWrittenBy i s) := by
  cases i with
  | servoWrite dst obj cap =>
    obtain ⟨rfl, rfl, hfits⟩ := h
    exact exec_servoWrite_of_fits hfits
  | motorWrite dst obj cap =>
    obtain ⟨rfl, rfl, hfits⟩ := h
    exact exec_motorWrite_of_fits hfits
  | ioWrite dst obj cap =>
    obtain ⟨rfl, rfl, hfits⟩ := h
    exact exec_ioWrite_of_fits s hfits
  | _ => exact h.elim

/-! ### A WRITE that does not write -/

/-- The first test of every WRITE passed (spec 40 R103, 41 R123, 42 R141). -/
theorem present_of_not_absent {dst obj : Bool} {cap : Nat} (h : ¬ (dst = false ∨ obj = false ∨ cap = 0)) :
    dst = true ∧ obj = true ∧ 1 ≤ cap := by
  simpa [Nat.one_le_iff_ne_zero] using h

theorem exec_of_not_writes {i : Instr} {s : State} {cap : Nat} (hcap : i.capacity = some cap) (h : ¬ Writes i s) :
    exec i s = .next (writeFails s) := by
  cases i with
  | servoWrite dst obj cap =>
    by_cases habsent : dst = false ∨ obj = false ∨ cap = 0
    · simp [exec, execServoWrite, habsent, outcome]
    have hcount : populatedCount Servo.id s.servo.servos.toList = s.servo.populatedSlots.length := populatedCount_eq _ _
    obtain ⟨hdst, hobj, -⟩ := present_of_not_absent habsent
    have hsmall : cap < 1 + 6 * s.servo.populatedSlots.length := Nat.lt_of_not_le fun hfits => h ⟨hdst, hobj, hfits⟩
    simp [exec, execServoWrite, habsent, hcount, hsmall, outcome]
  | motorWrite dst obj cap =>
    by_cases habsent : dst = false ∨ obj = false ∨ cap = 0
    · simp [exec, execMotorWrite, habsent, outcome]
    obtain ⟨hdst, hobj, -⟩ := present_of_not_absent habsent
    have hsmall : cap < (motorFrameBytes s.motor).length := Nat.lt_of_not_le fun hfits => h ⟨hdst, hobj, hfits⟩
    rw [motorFrameBytes_length, motorFrameSize_eq] at hsmall
    simp [exec, execMotorWrite, habsent, populatedCount_eq, hsmall, outcome]
  | ioWrite dst obj cap =>
    have habsent : dst = false ∨ obj = false ∨ cap = 0 := by_contra fun hno => h (present_of_not_absent hno)
    simp [exec, execIoWrite, habsent, outcome]
  | avoidWrite | movingWrite => rfl
  | _ => cases hcap

end Sys2Proof.Machine
end

section
/-! What each of the thirteen commands can do to the state, and from it the frame of the commands (spec 10 R32), their
blindness to the flags (R26) and the bound on `RET` (R22). -/

namespace Sys2Proof.Machine

/-! ### The next state of a command -/

theorem next_unique {i : Instr} {s t t' : State} (h : exec i s = .next t) (h' : exec i s = .next t') : t = t' :=
  Host.Outcome.next.inj (h.symm.trans h')

/-- The next state of a command whose meaning is known where `p` holds and where it does not. -/
theorem next_cases {i : Instr} {s t t₁ t₂ : State} {p : Prop} (h : exec i s = .next t) (hp : p → exec i s = .next t₁)
    (hn : ¬ p → exec i s = .next t₂) : t = t₁ ∨ t = t₂ :=
  (em p).imp (fun k => next_unique h (hp k)) fun k => next_unique h (hn k)

theorem exec_servoRead_cases {src : Bool} {len : Nat} {s t : State} (h : exec (.servoRead src len) s = .next t) :
    t = s.setServo (decodedServos s) ∨ t = servoReadFails s :=
  next_cases h exec_servoRead_of_valid exec_servoRead_of_not_valid

theorem exec_motorRead_cases {src : Bool} {len : Nat} {s t : State} (h : exec (.motorRead src len) s = .next t) :
    t = s.setMotor (decodedMotors s) ∨ t = motorReadFails s :=
  next_cases h exec_motorRead_of_valid exec_motorRead_of_not_valid

theorem exec_ioRead_cases {src : Bool} {len : Nat} {s t : State} (h : exec (.ioRead src len) s = .next t) :
    t = ioReadSucceeds s (s.fbByte 0) ∨ t = ioReadFails s :=
  next_cases h (exec_ioRead_of_byte s) (exec_ioRead_of_no_byte s)

@[simp] theorem fbByte_ioReadSucceeds (s : State) (v : Byte) (a : Nat) : (ioReadSucceeds s v).fbByte a = s.fbByte a := rfl

/-- Everything a WRITE can do (spec 20 R50): its whole frame stored and the frame's length in `RET`, or no byte and 0. -/
theorem exec_write_cases {i : Instr} {cap : Nat} {s t : State} (hcap : i.capacity = some cap)
    (h : exec i s = .next t) :
    (∃ m, t = setRetNat m (frameWrittenBy i s).length ∧ Wrote s m 0 (frameWrittenBy i s)) ∨ t = writeFails s := by
  by_cases hw : Writes i s
  · obtain ⟨m, hm, hwrote⟩ := exec_of_writes hw
    exact .inl ⟨m, next_unique h hm, hwrote⟩
  · exact .inr (next_unique h (exec_of_not_writes hcap hw))

/-- A SIZE puts a number into `RET` that no state changes, at most `3 + 4 * 255 + 2 * 255 + 2 * 255` for a command that
the word can carry (spec 10 R22, 30 R66, R71). -/
theorem exec_size {i : Instr} (hread : i.isRead = false) (hcap : i.capacity = none) :
    ∃ n, (∀ s, exec i s = .next (setRetNat s n)) ∧ (i.wellFormed = true → n ≤ 2043) := by
  cases i with
  | servoSize n =>
    refine ⟨servoFrameSize n, fun _ => rfl, fun hwf => ?_⟩
    simp only [Instr.wellFormed, decide_eq_true_eq] at hwf
    rw [servoFrameSize_eq]
    omega
  | motorSize c u b =>
    refine ⟨motorFrameSize c u b, fun _ => rfl, fun hwf => ?_⟩
    simp only [Instr.wellFormed, Bool.and_eq_true, decide_eq_true_eq] at hwf
    rw [motorFrameSize_eq]
    omega
  | ioSize => exact ⟨1, fun _ => rfl, fun _ => by decide⟩
  | servoRead | motorRead | ioRead | avoidRead | movingRead => cases hread
  | servoWrite | motorWrite | ioWrite | avoidWrite | movingWrite => cases hcap

theorem setRetNat_ret_toNat (s : State) {n : Nat} (h : n < 65536) : (setRetNat s n).ret.toNat = n := by
  simp [Nat.mod_eq_of_lt h]

theorem setRetNat_frame_ret_toNat (m : State) (i : Instr) (s : State) :
    (setRetNat m (frameWrittenBy i s).length).ret.toNat = (frameWrittenBy i s).length :=
  setRetNat_ret_toNat m (Nat.lt_of_le_of_lt (frameWrittenBy_length_le i s) (by decide))

/-! ### `RET` (spec 10 R22) -/

/-- Settles O23: a WRITE leaves its frame's length or 0, a SIZE its formula. -/
theorem retNeverOverflows : Obligations.RetNeverOverflows := by
  intro i s t hwf hread h
  cases hcap : i.capacity with
  | some cap =>
    rcases exec_write_cases hcap h with ⟨m, rfl, -⟩ | rfl
    · rw [setRetNat_frame_ret_toNat]
      exact (frameWrittenBy_length_le i s).trans (by decide)
    · simp
  | none =>
    obtain ⟨n, hn, hle⟩ := exec_size hread hcap
    obtain rfl := next_unique (hn s) h
    have hbound := hle hwf
    rw [setRetNat_ret_toNat s (by omega)]
    exact hbound

/-! ### What a command leaves as it was (spec 10 R32) -/

theorem Wrote.exists_setFb {s t : State} {a : Nat} {bytes : List Byte} (h : Wrote s t a bytes) :
    ∃ m, t = s.setFb m := ⟨t.fb, h.1⟩

/-- A WRITE or a SIZE changes `FB` and `RET` alone. -/
theorem exec_frame_of_not_isRead {i : Instr} {s t : State} (hread : i.isRead = false) (h : exec i s = .next t) :
    ∃ m v, t = (s.setFb m).setRet v := by
  cases hcap : i.capacity with
  | some cap =>
    rcases exec_write_cases hcap h with ⟨m, rfl, hwrote⟩ | rfl
    · obtain ⟨fb, rfl⟩ := hwrote.exists_setFb
      exact ⟨fb, _, rfl⟩
    · exact ⟨s.fb, 0#16, rfl⟩
  | none =>
    obtain ⟨n, hn, -⟩ := exec_size hread hcap
    obtain rfl := next_unique (hn s) h
    exact ⟨s.fb, _, rfl⟩

/-- A WRITE changes no byte at or above the number it leaves in `RET` (spec 20 R50). -/
theorem exec_write_fbByte {i : Instr} {cap : Nat} {s t : State} (hcap : i.capacity = some cap)
    (h : exec i s = .next t) {a : Nat} (ha : t.ret.toNat ≤ a) : t.fbByte a = s.fbByte a := by
  rcases exec_write_cases hcap h with ⟨m, rfl, hwrote⟩ | rfl
  · rw [setRetNat_frame_ret_toNat] at ha
    rw [fbByte_setRetNat, hwrote.frameStored, dif_neg (Nat.not_lt.2 ha)]
  · rfl

theorem exec_size_fbByte {i : Instr} {s t : State} (hread : i.isRead = false) (hcap : i.capacity = none)
    (h : exec i s = .next t) (a : Nat) : t.fbByte a = s.fbByte a := by
  obtain ⟨n, hn, -⟩ := exec_size hread hcap
  obtain rfl := next_unique (hn s) h
  rfl

/-- Settles O18: a READ replaces its own group (and uses up a draw), a WRITE or a SIZE changes `FB` and `RET` alone, and
which bytes is said by `exec_write_fbByte` and `exec_size_fbByte`. -/
theorem commandsTouchOnlyTheirOwnState : Obligations.CommandsTouchOnlyTheirOwnState := by
  intro i s t h
  cases hread : i.isRead with
  | false =>
    obtain ⟨m, v, ht⟩ := exec_frame_of_not_isRead hread h
    refine ⟨fun _ => by rw [ht]; rfl, fun _ => by rw [ht]; rfl, fun _ => by rw [ht]; rfl, fun _ => by rw [ht]; rfl,
      fun _ => by rw [ht]; rfl, by simp, fun hcap => exec_size_fbByte hread hcap h,
      fun cap hcap a => exec_write_fbByte hcap h, ?_, by rw [ht]; rfl⟩
    rintro ⟨dst, obj, cap, rfl | rfl⟩ a <;> exact exec_write_fbByte rfl h (by cases h; simp)
  | true =>
    cases i with
    | servoRead src len => rcases exec_servoRead_cases h with rfl | rfl <;> simp [Instr.capacity]
    | motorRead src len => rcases exec_motorRead_cases h with rfl | rfl <;> simp [Instr.capacity]
    | ioRead src len => rcases exec_ioRead_cases h with rfl | rfl <;> simp [Instr.capacity]
    | avoidRead | movingRead => cases h; simp [Instr.capacity]
    | _ => cases hread

/-! ### The flags are not consulted (spec 10 R26) -/

theorem writes_withFlagsOf (i : Instr) (s u : State) : Writes i (s.withFlagsOf u) ↔ Writes i s := by
  cases i <;> rfl

theorem frameWrittenBy_withFlagsOf (i : Instr) (s u : State) :
    frameWrittenBy i (s.withFlagsOf u) = frameWrittenBy i s := by
  cases i <;> rfl

/-- A READ decodes the same under other flags, and the group it writes comes out the same. -/
theorem exec_servoRead_withFlagsOf {src : Bool} {len : Nat} {s t : State} (u : State)
    (h : exec (.servoRead src len) s = .next t) :
    exec (.servoRead src len) (s.withFlagsOf u) = .next ((t.withFlagsOf u).setServo t.servo) := by
  by_cases hv : src = true ∧ ValidServoFrame s len
  · obtain rfl := next_unique (exec_servoRead_of_valid hv) h
    exact exec_servoRead_of_valid (s := s.withFlagsOf u) hv
  · obtain rfl := next_unique (exec_servoRead_of_not_valid hv) h
    exact exec_servoRead_of_not_valid (s := s.withFlagsOf u) hv

theorem exec_motorRead_withFlagsOf {src : Bool} {len : Nat} {s t : State} (u : State)
    (h : exec (.motorRead src len) s = .next t) :
    exec (.motorRead src len) (s.withFlagsOf u) = .next ((t.withFlagsOf u).setMotor t.motor) := by
  by_cases hv : src = true ∧ ValidMotorFrame s len
  · obtain rfl := next_unique (exec_motorRead_of_valid hv) h
    exact exec_motorRead_of_valid (s := s.withFlagsOf u) hv
  · obtain rfl := next_unique (exec_motorRead_of_not_valid hv) h
    exact exec_motorRead_of_not_valid (s := s.withFlagsOf u) hv

theorem exec_ioRead_withFlagsOf {src : Bool} {len : Nat} {s t : State} (u : State)
    (h : exec (.ioRead src len) s = .next t) :
    exec (.ioRead src len) (s.withFlagsOf u) = .next ((t.withFlagsOf u).setIo t.io) := by
  by_cases hv : src = true ∧ 1 ≤ len
  · obtain rfl := next_unique (exec_ioRead_of_byte s hv) h
    exact exec_ioRead_of_byte (s.withFlagsOf u) hv
  · obtain rfl := next_unique (exec_ioRead_of_no_byte s hv) h
    exact exec_ioRead_of_no_byte (s.withFlagsOf u) hv

/-- A WRITE or a SIZE under other flags: the same next state with those flags, the bytes of `FB` compared as they
read. -/
theorem exec_withFlagsOf_of_not_isRead {i : Instr} {s t : State} (u : State) (hread : i.isRead = false)
    (h : exec i s = .next t) :
    ∃ m, exec i (s.withFlagsOf u) = .next ((t.withFlagsOf u).setFb m) ∧
      ∀ a, ((t.withFlagsOf u).setFb m).fbByte a = t.fbByte a := by
  cases hcap : i.capacity with
  | none =>
    obtain ⟨n, hn, -⟩ := exec_size hread hcap
    obtain rfl := next_unique (hn s) h
    exact ⟨s.fb, hn _, fun _ => rfl⟩
  | some cap =>
    by_cases hw : Writes i s
    · obtain ⟨t1, h1, w1⟩ := exec_of_writes hw
      obtain ⟨t2, h2, w2⟩ := exec_of_writes ((writes_withFlagsOf i s u).2 hw)
      rw [frameWrittenBy_withFlagsOf] at h2 w2
      obtain rfl := next_unique h1 h
      have hbytes : ∀ a, t2.fbByte a = t1.fbByte a := fun a => (w2.frameStored a).trans (w1.frameStored a).symm
      obtain ⟨m1, rfl⟩ := w1.exists_setFb
      obtain ⟨m2, rfl⟩ := w2.exists_setFb
      exact ⟨m2, h2, hbytes⟩
    · obtain rfl := next_unique (exec_of_not_writes hcap hw) h
      exact ⟨s.fb, exec_of_not_writes hcap (mt (writes_withFlagsOf i s u).1 hw), fun _ => rfl⟩

/-- Settles O19: the next state under other flags is the next state with those flags, but for the group a READ
writes, which is the same in both. -/
theorem flagsAreNeverConsulted : Obligations.FlagsAreNeverConsulted := by
  intro i s u t h
  cases i with
  | servoRead src len =>
    exact ⟨_, exec_servoRead_withFlagsOf u h, rfl, fun _ => rfl, ⟨rfl, fun _ => rfl⟩, rfl, rfl, rfl, rfl⟩
  | motorRead src len =>
    exact ⟨_, exec_motorRead_withFlagsOf u h, rfl, fun _ => rfl, rfl, ⟨rfl, fun _ => rfl⟩, rfl, rfl, rfl⟩
  | ioRead src len =>
    exact ⟨_, exec_ioRead_withFlagsOf u h, rfl, fun _ => rfl, rfl, rfl, ⟨rfl, fun _ => rfl⟩, rfl, rfl⟩
  | avoidRead | movingRead =>
    cases h
    exact ⟨_, rfl, rfl, fun _ => rfl, rfl, rfl, rfl, rfl, rfl⟩
  | _ =>
    obtain ⟨m, hexec, hbytes⟩ := exec_withFlagsOf_of_not_isRead u rfl h
    exact ⟨_, hexec, rfl, hbytes, rfl, rfl, rfl, rfl, rfl⟩

end Sys2Proof.Machine
end

section
/-! Access to single bytes and 16-bit values of `FB` (spec 20 R42 to R44), and the invariant at reset. -/

namespace Sys2Proof.Machine

/-- Settles O14: nothing is listed after reset, and draw 0 is below draw 1. -/
theorem invariantHoldsAtReset : Obligations.InvariantHoldsAtReset :=
  ⟨rfl, nofun, Nat.zero_lt_one⟩

/-- Settles O24: `Wrote` says everything the write of one byte does. -/
theorem byteWriteChangesOneByte : Obligations.ByteWriteChangesOneByte := by
  intro s a v ha
  obtain ⟨t, ht, hwrote⟩ := memWrite1_ok s v ha
  have hback : t.fbByte a = v := hwrote.fbByte_inside (k := 0) Nat.zero_lt_one
  refine ⟨memRead1_ok ha, t, ht, by rw [memRead1_ok ha, hback], fun b hb => hwrote.fbByte_outside ?_, hwrote.1⟩
  simp only [List.length_singleton]
  omega

/-- Settles O25: the value read is the two bytes put together, the first one above. -/
theorem halfReadIsBigEndian : Obligations.HalfReadIsBigEndian :=
  fun _ _ ha => ⟨_, memRead2_ok ha, bigEndian_toNat _ _⟩

/-- Settles O26: `Wrote` says everything the write of the high and then the low byte does. -/
theorem halfWriteIsBigEndian : Obligations.HalfWriteIsBigEndian := by
  intro s a v ha
  obtain ⟨t, ht, hwrote⟩ := memWrite2_ok s v ha
  have hhigh : t.fbByte a = highByte v := hwrote.fbByte_inside (k := 0) Nat.zero_lt_two
  have hlow : t.fbByte (a + 1) = lowByte v := hwrote.fbByte_inside (k := 1) Nat.one_lt_two
  refine ⟨t, ht, by rw [hhigh, highByte_toNat], by rw [hlow, lowByte_toNat],
    fun b hb hb1 => hwrote.fbByte_outside ?_, hwrote.1⟩
  simp only [List.length_cons, List.length_nil]
  omega

end Sys2Proof.Machine
end

section
/-! Every event keeps the invariant (log 2, log 3): a WRITE and a host store by `Wrote`, a reset by its new draw, and
everything else because it leaves `FB` alone and uses up no draw twice. -/

namespace Sys2Proof.Machine

/-! ### Outcomes -/

theorem outcome_eq_next {r : Except Fault State} {t : State} (h : outcome r = .next t) : r = .ok t := by
  cases r with
  | ok u => exact congrArg Except.ok (Host.Outcome.next.inj h)
  | error f => cases h

theorem outcome_eq_fault {r : Except Fault State} {f : Fault} (h : outcome r = .fault f) : r = .error f := by
  cases r with
  | ok u => cases h
  | error g => exact congrArg Except.error (Host.Outcome.fault.inj h)

/-- What comes after a host access is a state of its own, so the whole completes only if the access does. -/
theorem outcome_bind_eq_next {α : Type} {r : Except Fault α} {k : α → State} {t : State}
    (h : outcome (do let x ← r; return k x) = .next t) : ∃ x, t = k x := by
  cases r with
  | ok x => exact ⟨x, (Host.Outcome.next.inj h).symm⟩
  | error f => cases h

/-- It faults only if the access does, with the access's fault. -/
theorem outcome_bind_eq_fault {α : Type} {r : Except Fault α} {k : α → State} {f : Fault}
    (h : outcome (do let x ← r; return k x) = .fault f) : r = .error f := by
  cases r with
  | ok x => cases h
  | error g => exact congrArg Except.error (Host.Outcome.fault.inj h)

theorem takeCommand_eq_next {w : CmdWord} {s t : State} (h : takeCommand w s = .next t) :
    ∃ i, decode w = .ok i ∧ exec i s = .next t := by
  rw [takeCommand] at h
  split at h
  next i hi => exact ⟨i, hi, h⟩
  next => cases h

/-! ### Runs of bytes that leave `FB` -/

theorem storeBytes_wellFormed_eq_false_iff {first : Nat} {bytes : List Byte} :
    (HostAction.storeBytes first bytes).wellFormed = false ↔
      bytes ≠ [] ∧ Config.fbSize < first + bytes.length := by
  simp [HostAction.wellFormed]

/-- A run of byte writes that leaves `FB` faults at its first byte outside (log 5). -/
theorem memWriteBytes_outside (s : State) {a : Nat} {bytes : List Byte} (hne : bytes ≠ [])
    (h : Config.fbSize < a + bytes.length) : ∃ f, memWriteBytes s a bytes = .error f := by
  induction bytes generalizing s a with
  | nil => exact absurd rfl hne
  | cons v rest ih =>
    by_cases ha : a < Config.fbSize
    · obtain ⟨t, ht, -⟩ := memWrite1_ok s v ha
      rw [List.length_cons] at h
      have hrest : rest ≠ [] := by
        rintro rfl
        rw [List.length_nil] at h
        omega
      obtain ⟨f, hf⟩ := ih t hrest (a := a + 1) (by omega)
      exact ⟨f, by simp [memWriteBytes, ht, hf, bind, Except.bind]⟩
    · exact ⟨.outsideFrameBuffer a, by simp [memWriteBytes, memWrite1, ha, bind, Except.bind]⟩

/-- A run of byte writes that completes lies inside `FB`, so `Wrote` says what it does. -/
theorem memWriteBytes_wrote {s t : State} {a : Nat} {bytes : List Byte} (h : memWriteBytes s a bytes = .ok t) :
    Wrote s t a bytes := by
  by_cases hfits : a + bytes.length ≤ Config.fbSize
  · obtain ⟨u, hu, hwrote⟩ := memWriteBytes_ok s bytes hfits
    obtain rfl := Except.ok.inj (hu.symm.trans h)
    exact hwrote
  · cases bytes with
    | nil =>
      cases h
      exact Wrote.nil s a
    | cons v rest =>
      obtain ⟨f, hf⟩ := memWriteBytes_outside s (List.cons_ne_nil v rest) (Nat.lt_of_not_le hfits)
      cases hf.symm.trans h

/-! ### The invariant -/

/-- The invariant reads only the bytes listed and the two counters, and a draw more keeps it. -/
theorem State.Inv.of_sameFb {s t : State} (hs : s.Inv) (hfb : t.fb = s.fb) (hdraw : t.fbDraw = s.fbDraw)
    (hdraws : s.draws ≤ t.draws) : t.Inv := by
  obtain ⟨hwf, hlisted, hfresh⟩ := hs
  exact ⟨hfb ▸ hwf, hfb ▸ hlisted, hdraw ▸ hfresh.trans_le hdraws⟩

theorem State.Inv.setHost {s : State} (hs : s.Inv) (h : HostScript) : (s.setHost h).Inv := hs

/-- A READ leaves what the invariant speaks of as it was, but that a failure uses up a draw. -/
theorem exec_read_keeps_fb {i : Instr} {s t : State} (hread : i.isRead = true) (h : exec i s = .next t) :
    t.fb = s.fb ∧ t.fbDraw = s.fbDraw ∧ s.draws ≤ t.draws := by
  cases i with
  | servoRead => rcases exec_servoRead_cases h with rfl | rfl <;> simp
  | motorRead => rcases exec_motorRead_cases h with rfl | rfl <;> simp
  | ioRead => rcases exec_ioRead_cases h with rfl | rfl <;> simp
  | avoidRead | movingRead => cases h; simp
  | _ => cases hread

theorem exec_inv {i : Instr} {s t : State} (hs : s.Inv) (h : exec i s = .next t) : t.Inv := by
  cases hread : i.isRead with
  | true =>
    obtain ⟨hfb, hdraw, hdraws⟩ := exec_read_keeps_fb hread h
    exact hs.of_sameFb hfb hdraw hdraws
  | false =>
    cases hcap : i.capacity with
    | some cap =>
      rcases exec_write_cases hcap h with ⟨m, rfl, -, -, hinv⟩ | rfl
      · exact hinv hs
      · exact hs
    | none =>
      obtain ⟨n, hn, -⟩ := exec_size hread hcap
      obtain rfl := next_unique (hn s) h
      exact hs

theorem takeAction_inv {a : HostAction} {s t : State} (hs : s.Inv) (h : takeAction a s = .next t) : t.Inv := by
  cases a with
  | command w =>
    obtain ⟨i, -, hi⟩ := takeCommand_eq_next h
    exact exec_inv hs hi
  | storeBytes first bytes =>
    obtain ⟨-, -, hinv⟩ := memWriteBytes_wrote (outcome_eq_next h)
    exact hinv hs
  | storeReg r v =>
    cases h
    exact hs.of_sameFb (writeReg_fb s r v) (writeReg_fbDraw s r v) (writeReg_draws s r v).ge
  | read p =>
    obtain ⟨-, rfl⟩ := outcome_bind_eq_next (k := fun _ => s) h
    exact hs
  | reset =>
    cases h
    exact ⟨rfl, nofun, Nat.lt_succ_self s.draws⟩

/-- Settles O15: by the event the step takes. An action keeps the invariant by `takeAction_inv`; a branch and an idle
step change nothing it speaks of. -/
theorem everyStepKeepsTheInvariant : Obligations.EveryStepKeepsTheInvariant := by
  intro s t hs h
  cases hhost : s.host with
  | done =>
    rw [step, takeEvent, hhost] at h
    cases h
    exact hs
  | act a rest =>
    rw [step_of_action hhost] at h
    exact takeAction_inv (hs.setHost rest) h
  | branch test yes no =>
    rw [step_of_branch hhost] at h
    obtain ⟨b, rfl⟩ := outcome_bind_eq_next h
    exact hs.setHost _

end Sys2Proof.Machine
end

section
/-! When a step faults: exactly when its own event names a byte outside `FB` (spec 20 R42, R48 (d), 60 R160; log 5). -/

namespace Sys2Proof.Machine

/-! ### No command faults -/

/-- A command whose meaning is known where `p` holds and where it does not completes. -/
theorem completes_of_cases {i : Instr} {s t₁ t₂ : State} {p : Prop} (hp : p → exec i s = .next t₁)
    (hn : ¬ p → exec i s = .next t₂) : ∃ t, exec i s = .next t :=
  (em p).elim (fun k => ⟨t₁, hp k⟩) fun k => ⟨t₂, hn k⟩

theorem exec_read_completes {i : Instr} (s : State) (hread : i.isRead = true) : ∃ t, exec i s = .next t := by
  cases i with
  | servoRead => exact completes_of_cases exec_servoRead_of_valid exec_servoRead_of_not_valid
  | motorRead => exact completes_of_cases exec_motorRead_of_valid exec_motorRead_of_not_valid
  | ioRead => exact completes_of_cases (exec_ioRead_of_byte s) (exec_ioRead_of_no_byte s)
  | avoidRead | movingRead => exact ⟨_, rfl⟩
  | _ => cases hread

theorem exec_write_completes {i : Instr} {cap : Nat} (s : State) (hcap : i.capacity = some cap) :
    ∃ t, exec i s = .next t := by
  by_cases hw : Writes i s
  · obtain ⟨m, hm, -⟩ := exec_of_writes hw
    exact ⟨_, hm⟩
  · exact ⟨_, exec_of_not_writes hcap hw⟩

/-- Every command completes, in every state (spec 60 R160, 20 R48 (d)). -/
theorem exec_completes (i : Instr) (s : State) : ∃ t, exec i s = .next t := by
  cases hread : i.isRead with
  | true => exact exec_read_completes s hread
  | false =>
    cases hcap : i.capacity with
    | some cap => exact exec_write_completes s hcap
    | none =>
      obtain ⟨n, hn, -⟩ := exec_size hread hcap
      exact ⟨_, hn s⟩

theorem takeCommand_ne_fault (w : CmdWord) (s : State) (f : Fault) : takeCommand w s ≠ .fault f := by
  rw [takeCommand]
  split
  next i _ =>
    obtain ⟨t, ht⟩ := exec_completes i s
    rw [ht]
    nofun
  next => nofun

/-! ### A fault comes from the event -/

theorem takeAction_fault {a : HostAction} {s : State} {f : Fault} (h : takeAction a s = .fault f) :
    ∃ b, f = .outsideFrameBuffer b ∧ Config.fbSize ≤ b ∧ a.wellFormed = false ∧ a.namesByte b := by
  cases a with
  | command w => exact absurd h (takeCommand_ne_fault w s f)
  | storeBytes first bytes =>
    obtain ⟨b, hf, hout, hfirst, hlast⟩ := memWriteBytes_error (outcome_eq_fault h)
    have hne : bytes ≠ [] := by
      rintro rfl
      rw [List.length_nil] at hlast
      omega
    exact ⟨b, hf, hout, storeBytes_wellFormed_eq_false_iff.2 ⟨hne, by omega⟩, hfirst, hlast⟩
  | read p => exact hostRead_error (outcome_bind_eq_fault (k := fun _ => s) h)
  | storeReg | reset => cases h

theorem takeBranch_fault {t : HostTest} {yes no : HostScript} {s : State} {f : Fault}
    (h : takeBranch t yes no s = .fault f) :
    ∃ b, f = .outsideFrameBuffer b ∧ Config.fbSize ≤ b ∧ t.wellFormed = false ∧ t.namesByte b :=
  hostTest_error (outcome_bind_eq_fault h)

/-- Settles O17: by the event the step takes. A fault of an action or a branch is the fault of the one access to `FB`
that it makes, and a command makes none that can fault. -/
theorem onlyIllFormedHostActionsFault : Obligations.OnlyIllFormedHostActionsFault := by
  intro s f h
  cases hhost : s.host with
  | done =>
    rw [step, takeEvent, hhost] at h
    cases h
  | act a rest =>
    rw [step_of_action hhost] at h
    obtain ⟨b, hf, hout, hwf, hnames⟩ := takeAction_fault h
    exact ⟨b, hf, hout, .inl ⟨a, rest, rfl, hwf, hnames⟩⟩
  | branch t yes no =>
    rw [step_of_branch hhost] at h
    obtain ⟨b, hf, hout, hwf, hnames⟩ := takeBranch_fault h
    exact ⟨b, hf, hout, .inr ⟨t, yes, no, rfl, hwf, hnames⟩⟩

/-! ### An ill-formed event faults -/

theorem hostRead_of_not_wellFormed (s : State) {p : HostPlace} (h : p.wellFormed = false) :
    ∃ f, hostRead s p = .error f := by
  cases p with
  | reg r => cases h
  | byte a =>
    have ha : ¬ a < Config.fbSize := of_decide_eq_false h
    exact ⟨.outsideFrameBuffer a, by simp [hostRead, memRead1, ha, bind, Except.bind]⟩

theorem takeAction_of_not_wellFormed (s : State) {a : HostAction} (h : a.wellFormed = false) :
    ∃ f, takeAction a s = .fault f := by
  cases a with
  | storeBytes first bytes =>
    obtain ⟨hne, hout⟩ := storeBytes_wellFormed_eq_false_iff.1 h
    obtain ⟨f, hf⟩ := memWriteBytes_outside s hne hout
    exact ⟨f, by simp [takeAction, hf, outcome]⟩
  | read p =>
    obtain ⟨f, hf⟩ := hostRead_of_not_wellFormed s h
    exact ⟨f, by simp [takeAction, hf, outcome, bind, Except.bind]⟩
  | command | storeReg | reset => cases h

theorem takeBranch_of_not_wellFormed (s : State) {t : HostTest} (yes no : HostScript) (h : t.wellFormed = false) :
    ∃ f, takeBranch t yes no s = .fault f := by
  cases t with
  | equals p v | below p v =>
    obtain ⟨f, hf⟩ := hostRead_of_not_wellFormed s h
    exact ⟨f, by simp [takeBranch, hostTest, hf, outcome, bind, Except.bind]⟩

/-- Settles O50: an ill-formed event faults, and a fault is always of a byte outside `FB` that the event names. -/
theorem illFormedHostActionsFault : Obligations.IllFormedHostActionsFault := by
  refine ⟨fun s a rest hhost hwf => ?_, fun s t yes no hhost hwf => ?_⟩
  · obtain ⟨f, hf⟩ := takeAction_of_not_wellFormed (s.setHost rest) hwf
    obtain ⟨b, rfl, hout, -, hnames⟩ := takeAction_fault hf
    exact ⟨b, (step_of_action hhost).trans hf, hout, hnames⟩
  · obtain ⟨f, hf⟩ := takeBranch_of_not_wellFormed s yes no hwf
    obtain ⟨b, rfl, hout, -, hnames⟩ := takeBranch_fault hf
    exact ⟨b, (step_of_branch hhost).trans hf, hout, hnames⟩

end Sys2Proof.Machine
end

section
/-! A WRITE writes its whole frame or nothing (spec 20 R50), and a READ can be repeated (R49). -/

namespace Sys2Proof.Machine

/-- No more records are emitted than are populated: the slots scanned are some of the eight (spec 40 R104). -/
theorem emitted_length_le_populatedSlots (g : ServoGroup) : g.emitted.length ≤ g.populatedSlots.length :=
  ((List.take_sublist _ _).filter _).length_le

/-- The frame of a WRITE that writes fits in `CAP` (spec 20 R48 (c)). -/
theorem Writes.frame_length_le_capacity {i : Instr} {cap : Nat} {s : State} (h : Writes i s)
    (hcap : i.capacity = some cap) : (frameWrittenBy i s).length ≤ cap := by
  cases i with
  | servoWrite dst obj cap' =>
    obtain rfl : cap' = cap := Option.some.inj hcap
    obtain ⟨-, -, hfits⟩ := h
    have hemitted := emitted_length_le_populatedSlots s.servo
    rw [frameWrittenBy, servoFrameBytes_length]
    omega
  | motorWrite dst obj cap' =>
    obtain rfl : cap' = cap := Option.some.inj hcap
    obtain ⟨-, -, hfits⟩ := h
    exact hfits
  | ioWrite dst obj cap' =>
    obtain rfl : cap' = cap := Option.some.inj hcap
    obtain ⟨-, -, hfits⟩ := h
    exact hfits
  | _ => exact h.elim

/-- Settles O20: a WRITE that writes leaves its frame's length in `RET`, one that does not
leaves 0 there and every byte as it was. -/
theorem writeIsAllOrNothing : Obligations.WriteIsAllOrNothing := by
  intro i cap s t hcap h
  have habove : ∀ a, t.ret.toNat ≤ a → t.fbByte a = s.fbByte a := fun a => exec_write_fbByte hcap h
  by_cases hw : Writes i s
  · obtain ⟨m, hm, hwrote⟩ := exec_of_writes hw
    obtain rfl := next_unique hm h
    have hret := setRetNat_frame_ret_toNat m i s
    exact ⟨fun _ => ⟨hwrote.frameStored, hret.symm⟩, fun hzero a => habove a (by omega), habove,
      hret.trans_le (hw.frame_length_le_capacity hcap), hret.trans_le (frameWrittenBy_length_le i s)⟩
  · obtain rfl := next_unique (exec_of_not_writes hcap hw) h
    simp

theorem capacity_of_isRead {i : Instr} (hread : i.isRead = true) : i.capacity = none := by
  cases i with
  | servoRead | motorRead | ioRead | avoidRead | movingRead => rfl
  | _ => cases hread

/-- Settles O21: the second READ meets the bytes the first one met, so it decodes the same (`exec_servoRead_agree` and
its like), and it leaves the other groups alone. -/
theorem readingIsRepeatable : Obligations.ReadingIsRepeatable := by
  intro i s t hread h
  obtain ⟨-, -, -, -, -, -, hbytes, -⟩ := commandsTouchOnlyTheirOwnState i s t h
  have hfb := hbytes (capacity_of_isRead hread)
  have hsame : ∀ n, AgreeBelow n s t := fun _ a _ => (hfb a).symm
  obtain ⟨t', ht'⟩ := exec_completes i t
  obtain ⟨hservo, hmotor, hio, havoid, hmoving, -⟩ := commandsTouchOnlyTheirOwnState i t t' ht'
  refine ⟨hfb, t', ht', ?_⟩
  cases i with
  | servoRead src len =>
    obtain ⟨u, u', hu, hu', hflag, hgroup⟩ := exec_servoRead_agree src (hsame (min len 67))
    obtain ⟨rfl, rfl⟩ := And.intro (next_unique hu h) (next_unique hu' ht')
    exact ⟨hflag.symm, by rw [hmotor nofun], by rw [hio nofun], havoid nofun, hmoving nofun,
      fun hok => (hgroup hok).symm, fun _ => hmotor nofun, fun _ => hio nofun⟩
  | motorRead src len =>
    obtain ⟨u, u', hu, hu', hflag, hgroup⟩ := exec_motorRead_agree src (hsame (min len 67))
    obtain ⟨rfl, rfl⟩ := And.intro (next_unique hu h) (next_unique hu' ht')
    exact ⟨by rw [hservo nofun], hflag.symm, by rw [hio nofun], havoid nofun, hmoving nofun,
      fun _ => hservo nofun, fun hok => (hgroup hok).symm, fun _ => hio nofun⟩
  | ioRead src len =>
    obtain ⟨u, u', hu, hu', hflag, hgroup⟩ := exec_ioRead_agree src (hsame (min len 67))
    obtain ⟨rfl, rfl⟩ := And.intro (next_unique hu h) (next_unique hu' ht')
    exact ⟨by rw [hservo nofun], by rw [hmotor nofun], hflag.symm, havoid nofun, hmoving nofun,
      fun _ => hservo nofun, fun _ => hmotor nofun, fun hok => (hgroup hok).symm⟩
  | avoidRead | movingRead =>
    cases h
    cases ht'
    exact ⟨rfl, rfl, rfl, rfl, rfl, fun _ => rfl, fun _ => rfl, fun _ => rfl⟩
  | _ => cases hread

end Sys2Proof.Machine
end

section
/-! Decode and encode are inverse (spec 30 R81 to R88). Each format is described once, by the fields of the words it
assembles; encoding then reads off those fields from left to right, decoding from right to left. -/

namespace Sys2Proof

/-! ### The words of each format, by their fields -/

theorem getLsbD_eq_iff (w : CmdWord) (i : Nat) (b : Bool) :
    w.getLsbD i = b ↔ w.toNat / 2 ^ i % 2 = (bitOf b).toNat := by
  rw [bit_eq_decide, bitOf_toNat]
  cases b <;> simp

theorem a0Field_eq (w : CmdWord) : a0Field w = w.toNat / 65536 % 256 := by
  simp [a0Field, BitVec.extractLsb'_toNat, Nat.shiftRight_eq_div_pow]

theorem a1Field_eq (w : CmdWord) : a1Field w = w.toNat / 256 % 256 := by
  simp [a1Field, BitVec.extractLsb'_toNat, Nat.shiftRight_eq_div_pow]

theorem a2Field_eq (w : CmdWord) : a2Field w = w.toNat % 256 := by
  simp [a2Field, BitVec.extractLsb'_toNat]

theorem lenField_lt (w : CmdWord) : lenField w < 65536 := (w.extractLsb' 0 16).isLt
theorem a0Field_lt (w : CmdWord) : a0Field w < 256 := (w.extractLsb' 16 8).isLt
theorem a1Field_lt (w : CmdWord) : a1Field w < 256 := (w.extractLsb' 8 8).isLt
theorem a2Field_lt (w : CmdWord) : a2Field w < 256 := (w.extractLsb' 0 8).isLt

theorem encodeFormatR_eq_iff {op : BitVec 4} {src : Bool} {len : Nat} {w : CmdWord} (hlen : len < 65536) :
    encodeFormatR op src len = w ↔
      opField w = op ∧ w.extractLsb' 16 11 = 0#11 ∧ w.getLsbD 27 = src ∧ lenField w = len := by
  have hop := op.isLt
  have hsrc := (bitOf src).isLt
  have hw := w.isLt
  rw [← BitVec.toNat_inj, ← BitVec.toNat_inj (x := opField w), encodeFormatR_toNat, opField_toNat, extract_eq_iff,
    getLsbD_eq_iff, lenField_eq, BitVec.toNat_ofNat]
  omega

theorem encodeFormatW_eq_iff {op : BitVec 4} {dst obj : Bool} {cap : Nat} {w : CmdWord} (hcap : cap < 65536) :
    encodeFormatW op dst obj cap = w ↔
      opField w = op ∧ w.extractLsb' 16 10 = 0#10 ∧ w.getLsbD 27 = dst ∧ w.getLsbD 26 = obj ∧ lenField w = cap := by
  have hop := op.isLt
  have hdst := (bitOf dst).isLt
  have hobj := (bitOf obj).isLt
  have hw := w.isLt
  rw [← BitVec.toNat_inj, ← BitVec.toNat_inj (x := opField w), encodeFormatW_toNat, opField_toNat, extract_eq_iff,
    getLsbD_eq_iff, getLsbD_eq_iff, lenField_eq, BitVec.toNat_ofNat]
  omega

theorem encodeFormatS_eq_iff {op : BitVec 4} {a0 a1 a2 : Nat} {w : CmdWord} (h0 : a0 < 256) (h1 : a1 < 256)
    (h2 : a2 < 256) :
    encodeFormatS op a0 a1 a2 = w ↔
      opField w = op ∧ w.extractLsb' 24 4 = 0#4 ∧ a0Field w = a0 ∧ a1Field w = a1 ∧ a2Field w = a2 := by
  have hop := op.isLt
  have hw := w.isLt
  rw [← BitVec.toNat_inj, ← BitVec.toNat_inj (x := opField w), encodeFormatS_toNat, opField_toNat, extract_eq_iff,
    a0Field_eq, a1Field_eq, a2Field_eq, BitVec.toNat_ofNat]
  omega

/-! ### The format decoders -/

/-- Every format decoder has this shape: the operands where the must-be-zero bits are 0, else the rejection. -/
theorem checked_eq_ok_iff {p : Prop} [Decidable p] {i j : Instr} {why : Reserved} :
    (if p then .ok i else .error why : Except Reserved Instr) = .ok j ↔ p ∧ i = j := by
  split <;> simp [*]

theorem decodeFormatR_eq_ok_iff {make : Bool → Nat → Instr} {w : CmdWord} {i : Instr} :
    decodeFormatR make w = .ok i ↔ w.extractLsb' 16 11 = 0#11 ∧ make (w.getLsbD 27) (lenField w) = i :=
  checked_eq_ok_iff

theorem decodeFormatW_eq_ok_iff {make : Bool → Bool → Nat → Instr} {w : CmdWord} {i : Instr} :
    decodeFormatW make w = .ok i ↔
      w.extractLsb' 16 10 = 0#10 ∧ make (w.getLsbD 27) (w.getLsbD 26) (lenField w) = i :=
  checked_eq_ok_iff

theorem decodeServoSize_eq_ok_iff {w : CmdWord} {i : Instr} :
    decodeServoSize w = .ok i ↔
      (w.extractLsb' 24 4 = 0#4 ∧ w.extractLsb' 0 16 = 0#16) ∧ .servoSize (a0Field w) = i :=
  checked_eq_ok_iff

theorem decodeMotorSize_eq_ok_iff {w : CmdWord} {i : Instr} :
    decodeMotorSize w = .ok i ↔
      w.extractLsb' 24 4 = 0#4 ∧ .motorSize (a0Field w) (a1Field w) (a2Field w) = i :=
  checked_eq_ok_iff

theorem decodeIoSize_eq_ok_iff {w : CmdWord} {i : Instr} :
    decodeIoSize w = .ok i ↔ w.extractLsb' 0 28 = 0#28 ∧ .ioSize = i :=
  checked_eq_ok_iff

/-- The must-be-zero bits of `SERVO_SIZE` below bit 16 are `A1` and `A2` (spec 30 R84). -/
theorem low16_eq_zero_iff (w : CmdWord) : w.extractLsb' 0 16 = 0#16 ↔ a1Field w = 0 ∧ a2Field w = 0 := by
  rw [extract_eq_iff, a1Field_eq, a2Field_eq, BitVec.toNat_ofNat]
  omega

/-- The must-be-zero bits of `IO_SIZE` are the unused bits of format S, `A0`, `A1` and `A2` (spec 30 R84). -/
theorem low28_eq_zero_iff (w : CmdWord) :
    w.extractLsb' 0 28 = 0#28 ↔ w.extractLsb' 24 4 = 0#4 ∧ a0Field w = 0 ∧ a1Field w = 0 ∧ a2Field w = 0 := by
  rw [extract_eq_iff, extract_eq_iff, a0Field_eq, a1Field_eq, a2Field_eq, BitVec.toNat_ofNat, BitVec.toNat_ofNat]
  omega

/-! ### Decode and encode are inverse -/

theorem opField_encode (i : Instr) : opField (encode i) = i.opcode := by
  cases i with
  | servoRead | motorRead | ioRead | avoidRead | movingRead => exact opField_encodeFormatR _ _ _
  | servoWrite | motorWrite | ioWrite | avoidWrite | movingWrite => exact opField_encodeFormatW _ _ _ _
  | servoSize | motorSize | ioSize => exact opField_encodeFormatS _ _ _ _

/-- Settles O1: the encoding has the instruction's `OP`, so `decode` uses the decoder of its format, which reads every
operand back from its field. -/
theorem decodeOfEncodeIsIdentity : Obligations.DecodeOfEncodeIsIdentity := by
  intro i hwf
  rw [decode, opField_encode]
  cases i with
  | servoRead src len | motorRead src len | ioRead src len | avoidRead src len | movingRead src len =>
    obtain ⟨-, hzero, hsrc, hlen⟩ := (encodeFormatR_eq_iff (of_decide_eq_true hwf)).1 rfl
    exact decodeFormatR_eq_ok_iff.2 ⟨hzero, by rw [encode, hsrc, hlen]⟩
  | servoWrite dst obj cap | motorWrite dst obj cap | ioWrite dst obj cap | avoidWrite dst obj cap
  | movingWrite dst obj cap =>
    obtain ⟨-, hzero, hdst, hobj, hcap⟩ := (encodeFormatW_eq_iff (of_decide_eq_true hwf)).1 rfl
    exact decodeFormatW_eq_ok_iff.2 ⟨hzero, by rw [encode, hdst, hobj, hcap]⟩
  | servoSize n =>
    obtain ⟨-, hzero, h0, h12⟩ :=
      (encodeFormatS_eq_iff (of_decide_eq_true hwf) (by decide : 0 < 256) (by decide : 0 < 256)).1 rfl
    exact decodeServoSize_eq_ok_iff.2 ⟨⟨hzero, (low16_eq_zero_iff _).2 h12⟩, by rw [encode, h0]⟩
  | motorSize c u b =>
    simp only [Instr.wellFormed, Bool.and_eq_true, decide_eq_true_eq] at hwf
    obtain ⟨⟨hc, hu⟩, hb⟩ := hwf
    obtain ⟨-, hzero, h0, h1, h2⟩ := (encodeFormatS_eq_iff hc hu hb).1 rfl
    exact decodeMotorSize_eq_ok_iff.2 ⟨hzero, by rw [encode, h0, h1, h2]⟩
  | ioSize => rfl

/-- Settles O2: a word that a format decoder accepts has the fields that the format assembles. The cases are the arms of
`decode`, grouped by format. -/
theorem encodeOfDecodeIsIdentity : Obligations.EncodeOfDecodeIsIdentity := by
  intro w i h
  rw [decode] at h
  split at h
  case h_1 hop | h_4 hop | h_7 hop | h_10 hop | h_12 hop =>
    obtain ⟨hzero, rfl⟩ := decodeFormatR_eq_ok_iff.1 h
    exact ⟨(encodeFormatR_eq_iff (lenField_lt w)).2 ⟨BitVec.eq_of_toNat_eq hop, hzero, rfl, rfl⟩,
      decide_eq_true (lenField_lt w)⟩
  case h_2 hop | h_5 hop | h_8 hop | h_11 hop | h_13 hop =>
    obtain ⟨hzero, rfl⟩ := decodeFormatW_eq_ok_iff.1 h
    exact ⟨(encodeFormatW_eq_iff (lenField_lt w)).2 ⟨BitVec.eq_of_toNat_eq hop, hzero, rfl, rfl, rfl⟩,
      decide_eq_true (lenField_lt w)⟩
  case h_3 hop =>
    obtain ⟨⟨hzero, hlow⟩, rfl⟩ := decodeServoSize_eq_ok_iff.1 h
    exact ⟨(encodeFormatS_eq_iff (a0Field_lt w) (by decide) (by decide)).2
      ⟨BitVec.eq_of_toNat_eq hop, hzero, rfl, (low16_eq_zero_iff w).1 hlow⟩, decide_eq_true (a0Field_lt w)⟩
  case h_6 hop =>
    obtain ⟨hzero, rfl⟩ := decodeMotorSize_eq_ok_iff.1 h
    exact ⟨(encodeFormatS_eq_iff (a0Field_lt w) (a1Field_lt w) (a2Field_lt w)).2
      ⟨BitVec.eq_of_toNat_eq hop, hzero, rfl, rfl, rfl⟩,
      by simp [Instr.wellFormed, a0Field_lt, a1Field_lt, a2Field_lt]⟩
  case h_9 hop =>
    obtain ⟨hlow, rfl⟩ := decodeIoSize_eq_ok_iff.1 h
    exact ⟨(encodeFormatS_eq_iff (by decide) (by decide) (by decide)).2
      ⟨BitVec.eq_of_toNat_eq hop, (low28_eq_zero_iff w).1 hlow⟩, rfl⟩
  case h_14 => cases h

/-- Settles O5: the words are fixed, so the decoder is run on each. -/
theorem specWordsDecode : Obligations.SpecWordsDecode := by
  unfold Obligations.SpecWordsDecode
  decide

end Sys2Proof
end

section
/-! The operation map (spec 30 R85): a row's mask covers `OP` and the must-be-zero bits, which are just what the decoder
tests. -/

namespace Sys2Proof

/-! ### Fields of a word under a mask -/

/-- The word whose bits `i` to `i + n - 1` are 1 and whose other bits are 0. -/
def fieldMask (i n : Nat) : CmdWord := (BitVec.allOnes n).setWidth 32 <<< i

theorem getLsbD_fieldMask {i n : Nat} (h : i + n ≤ 32) (k : Nat) :
    (fieldMask i n).getLsbD k = decide (i ≤ k ∧ k < i + n) := by
  simp only [fieldMask, BitVec.getLsbD_shiftLeft, BitVec.getLsbD_setWidth, BitVec.getLsbD_allOnes]
  grind

theorem and_fieldMask_eq_zero_iff (w : CmdWord) {i n : Nat} (h : i + n ≤ 32) :
    w &&& fieldMask i n = 0#32 ↔ w.extractLsb' i n = 0#n := by
  simp only [BitVec.eq_of_getLsbD_eq_iff, BitVec.getLsbD_and, getLsbD_fieldMask h, BitVec.getLsbD_extractLsb',
    BitVec.getLsbD_zero]
  constructor
  · intro hw k hk
    simpa [hk] using hw (i + k) (by omega)
  · intro hw k hk
    by_cases hin : i ≤ k ∧ k < i + n
    · have hbit := hw (k - i) (by omega)
      rw [Nat.add_sub_cancel' hin.1] at hbit
      grind
    · simp [hin]

/-- A word is its `OP` and the 28 bits below it. -/
theorem word_eq_iff (x y : CmdWord) :
    x = y ↔ opField x = opField y ∧ x.extractLsb' 0 28 = y.extractLsb' 0 28 := by
  rw [← BitVec.toNat_inj, ← BitVec.toNat_inj (x := opField x), extract_eq_iff, opField_toNat, opField_toNat,
    BitVec.extractLsb'_toNat, Nat.shiftRight_zero]
  omega

/-! ### Rows of the operation map -/

/-- The must-be-zero bits of a row: its mask without the `OP` bits (spec 30 R85). -/
def mustBeZeroBits (row : BitVec 4 × CmdWord × CmdWord) : CmdWord := row.2.2 &&& fieldMask 0 28

theorem opcodeTable_op_covered : ∀ row ∈ opcodeTable,
    opField row.2.2 = BitVec.allOnes 4 ∧ opField row.2.1 = row.1 ∧ row.2.1.extractLsb' 0 28 = 0#28 := by
  simp [opcodeTable, opField]

theorem row_eq_of_opcode_eq {row row' : BitVec 4 × CmdWord × CmdWord} (h : row ∈ opcodeTable)
    (h' : row' ∈ opcodeTable) (hop : row.1 = row'.1) : row = row' :=
  List.inj_on_of_nodup_map (f := Prod.fst) (by decide) h h' hop

theorem exists_row (i : Instr) : ∃ row ∈ opcodeTable, i.opcode = row.1 := by
  cases i <;> simp [opcodeTable, Instr.opcode]

/-- The mask of a row covers `OP` and the must-be-zero bits (spec 30 R85), so the match under it is both tests. -/
theorem selectsRow_iff {w : CmdWord} {row : BitVec 4 × CmdWord × CmdWord} (hrow : row ∈ opcodeTable) :
    selectsRow w row = true ↔ opField w = row.1 ∧ w &&& mustBeZeroBits row = 0#32 := by
  obtain ⟨hmask, hmatch, hlow⟩ := opcodeTable_op_covered row hrow
  have hop : opField (w &&& row.2.2) = opField w := by
    rw [opField, BitVec.extractLsb'_and, ← opField, ← opField, hmask, BitVec.and_allOnes]
  rw [selectsRow, beq_iff_eq, word_eq_iff, hop, hmatch, hlow, ← and_fieldMask_eq_zero_iff _ (by decide),
    BitVec.and_assoc, mustBeZeroBits]

/-! ### Which words of an `OP` decode -/

/-- A word that decodes has the instruction's `OP` in bits 31:28 (spec 30 R81). -/
theorem opField_eq_opcode {w : CmdWord} {i : Instr} (h : decode w = .ok i) : opField w = i.opcode := by
  rw [← (encodeOfDecodeIsIdentity w i h).1, opField_encode]

theorem exists_checked_iff {p : Prop} [Decidable p] {i : Instr} {why : Reserved} :
    (∃ j, (if p then .ok i else .error why : Except Reserved Instr) = .ok j) ↔ p := by
  simp [checked_eq_ok_iff]

theorem exists_decodeFormatR_iff (make : Bool → Nat → Instr) (w : CmdWord) :
    (∃ i, decodeFormatR make w = .ok i) ↔ w &&& fieldMask 16 11 = 0#32 :=
  exists_checked_iff.trans (and_fieldMask_eq_zero_iff w (by decide)).symm

theorem exists_decodeFormatW_iff (make : Bool → Bool → Nat → Instr) (w : CmdWord) :
    (∃ i, decodeFormatW make w = .ok i) ↔ w &&& fieldMask 16 10 = 0#32 :=
  exists_checked_iff.trans (and_fieldMask_eq_zero_iff w (by decide)).symm

theorem exists_decodeServoSize_iff (w : CmdWord) :
    (∃ i, decodeServoSize w = .ok i) ↔ w &&& (fieldMask 24 4 ||| fieldMask 0 16) = 0#32 := by
  rw [BitVec.and_or_distrib_left, BitVec.or_eq_zero_iff, and_fieldMask_eq_zero_iff w (by decide),
    and_fieldMask_eq_zero_iff w (by decide)]
  exact exists_checked_iff

theorem exists_decodeMotorSize_iff (w : CmdWord) :
    (∃ i, decodeMotorSize w = .ok i) ↔ w &&& fieldMask 24 4 = 0#32 :=
  exists_checked_iff.trans (and_fieldMask_eq_zero_iff w (by decide)).symm

theorem exists_decodeIoSize_iff (w : CmdWord) : (∃ i, decodeIoSize w = .ok i) ↔ w &&& fieldMask 0 28 = 0#32 :=
  exists_checked_iff.trans (and_fieldMask_eq_zero_iff w (by decide)).symm

/-- A word with the `OP` of a row decodes exactly when the row's must-be-zero bits are 0 in it (spec 30 R85, R86). -/
theorem exists_decode_iff {w : CmdWord} {row : BitVec 4 × CmdWord × CmdWord} (hrow : row ∈ opcodeTable)
    (hop : opField w = row.1) : (∃ i, decode w = .ok i) ↔ w &&& mustBeZeroBits row = 0#32 := by
  rw [decode, hop]
  simp only [opcodeTable, List.mem_cons, List.not_mem_nil, or_false] at hrow
  obtain rfl | rfl | rfl | rfl | rfl | rfl | rfl | rfl | rfl | rfl | rfl | rfl | rfl := hrow
  exacts [exists_decodeFormatR_iff _ w, exists_decodeFormatW_iff _ w, exists_decodeServoSize_iff w,
    exists_decodeFormatR_iff _ w, exists_decodeFormatW_iff _ w, exists_decodeMotorSize_iff w,
    exists_decodeFormatR_iff _ w, exists_decodeFormatW_iff _ w, exists_decodeIoSize_iff w,
    exists_decodeFormatR_iff _ w, exists_decodeFormatW_iff _ w,
    exists_decodeFormatR_iff _ w, exists_decodeFormatW_iff _ w]

theorem selectsRow_iff_decode {w : CmdWord} {row : BitVec 4 × CmdWord × CmdWord} (hrow : row ∈ opcodeTable) :
    selectsRow w row = true ↔ ∃ i, decode w = .ok i ∧ i.opcode = row.1 := by
  rw [selectsRow_iff hrow]
  constructor
  · rintro ⟨hop, hzero⟩
    obtain ⟨i, hi⟩ := (exists_decode_iff hrow hop).2 hzero
    exact ⟨i, hi, (opField_eq_opcode hi).symm.trans hop⟩
  · rintro ⟨i, hi, hrowop⟩
    have hop := (opField_eq_opcode hi).trans hrowop
    exact ⟨hop, (exists_decode_iff hrow hop).1 ⟨i, hi⟩⟩

/-- Settles O3: two rows a word matches both have the word's `OP`, and no two rows share one. -/
theorem decodeSelectsTheMatchingRow : Obligations.DecodeSelectsTheMatchingRow := by
  refine ⟨fun w row hrow => selectsRow_iff_decode hrow, fun w row row' hrow hrow' h h' => ?_⟩
  obtain ⟨hop, -⟩ := (selectsRow_iff hrow).1 h
  obtain ⟨hop', -⟩ := (selectsRow_iff hrow').1 h'
  exact row_eq_of_opcode_eq hrow hrow' (hop.symm.trans hop')

end Sys2Proof
end

section
/-! Reserved command words (spec 30 R86), the host's reset (R89), and the status bytes (R64, R68, R69). -/

namespace Sys2Proof.Machine

/-! ### Reserved words -/

theorem takeCommand_of_reserved {w : CmdWord} {why : Reserved} (h : decode w = .error why) (s : State) :
    takeCommand w s = .refused (.reservedCommand why w) := by
  simp [takeCommand, h]

theorem decode_of_no_row {w : CmdWord} (h : ∀ row ∈ opcodeTable, selectsRow w row = false) :
    ∃ why, decode w = .error why := by
  cases hw : decode w with
  | error why => exact ⟨why, rfl⟩
  | ok i =>
    obtain ⟨row, hrow, hop⟩ := exists_row i
    have hselects := (selectsRow_iff_decode hrow).2 ⟨i, hw, hop⟩
    rw [h row hrow] at hselects
    cases hselects

theorem decode_of_reserved_opField {w : CmdWord} (h : opField w = 0x3#4 ∨ opField w = 0x7#4 ∨ opField w = 0xB#4) :
    decode w = .error .operation := by
  rcases h with h | h | h <;> rw [decode, h] <;> rfl

/-- Settles O4: a word that decodes is selected by a row, so one that no row selects does not decode; and no arm of
`decode` has the `OP` 0x3, 0x7 or 0xB. -/
theorem reservedWordIsRefused : Obligations.ReservedWordIsRefused := by
  refine fun s w => ⟨fun h => ?_, fun h => takeCommand_of_reserved (decode_of_reserved_opField h) s⟩
  obtain ⟨why, hwhy⟩ := decode_of_no_row h
  exact ⟨why, takeCommand_of_reserved hwhy s⟩

/-! ### The host's reset -/

/-- Settles O12: the script moves on before the action runs, and the reset leaves it. -/
theorem hostResetsTheBlock : Obligations.HostResetsTheBlock :=
  fun _ _ h => ⟨_, step_of_action h, rfl, rfl⟩

/-! ### Status bytes -/

theorem statusBit_toNat (st : Byte) (bit : Nat) : (statusBit st bit).toNat = st.toNat / 2 ^ bit % 2 := by
  simp [statusBit, BitVec.extractLsb'_toNat, Nat.shiftRight_eq_div_pow]

theorem statusBit_zero_toNat (st : Byte) : (statusBit st 0).toNat = st.toNat % 2 := by
  rw [statusBit_toNat, pow_zero, Nat.div_one]

theorem unpackServo_color_toNat (id : Byte) (p c : Half) (st : Byte) :
    (unpackServo id p c st).color.toNat = st.toNat % 8 := by
  simp [unpackServo, BitVec.extractLsb'_toNat]

/-- Settles O27: the encoded bytes are the sums of `packServoStatus_toNat` and its like, the decoded flags are
single bits. -/
theorem statusBytesArePackedAsTheSpecSays : Obligations.StatusBytesArePackedAsTheSpecSays :=
  ⟨packServoStatus_toNat, packControlledStatus_toNat, packUncontrolledStatus_toNat,
    fun id p c st => ⟨statusBit_toNat st 5, statusBit_toNat st 4, statusBit_toNat st 3,
      unpackServo_color_toNat id p c st⟩,
    fun _ _ _ st => ⟨statusBit_toNat st 1, statusBit_zero_toNat st⟩,
    fun _ st => ⟨statusBit_toNat st 1, statusBit_zero_toNat st⟩⟩

end Sys2Proof.Machine
end

section
/-! What both servo and motor round trips need: a frame's bytes read back as its records, and an array of slots whose
records stand first (spec 40 R106, 41 R126). -/

namespace Sys2Proof.Machine

/-! ### Bytes of `FB` read back as records -/

/-- `bytes` stand in `FB` from index `p` on. -/
def HoldsAt (s : State) (p : Nat) (bytes : List Byte) : Prop :=
  ∀ k (h : k < bytes.length), s.fbByte (p + k) = bytes[k]

theorem FrameStored.holdsAt {s t : State} {frame : List Byte} (h : FrameStored s t frame) : HoldsAt t 0 frame :=
  fun k hk => by rw [h, Nat.zero_add, dif_pos hk]

theorem HoldsAt.left {s : State} {p : Nat} {xs ys : List Byte} (h : HoldsAt s p (xs ++ ys)) : HoldsAt s p xs :=
  fun k hk => by rw [h k (by simp; omega), List.getElem_append_left hk]

theorem HoldsAt.right {s : State} {p : Nat} {xs ys : List Byte} (h : HoldsAt s p (xs ++ ys)) :
    HoldsAt s (p + xs.length) ys := by
  intro k hk
  rw [Nat.add_assoc, h _ (by simp; omega), List.getElem_append_right (Nat.le_add_right ..)]
  simp

/-- Records stored one after the other are the records of the section that begins there. -/
theorem recordsAt_of_holdsAt {α : Type} {c : RecordCodec α} {bytes : α → List Byte} {at0 : State → Nat → α}
    (hc : c.Lawful bytes at0) {s : State} {rs : List α} {p : Nat} (h : HoldsAt s p (rs.flatMap bytes)) :
    recordsAt at0 c.size s rs.length p = rs := by
  induction rs generalizing p with
  | nil => rfl
  | cons r rs ih =>
    rw [List.flatMap_cons] at h
    have hrest := h.right
    rw [hc.length] at hrest
    rw [List.length_cons, recordsAt, hc.at_bytes s p r h.left, ih hrest]

/-! ### Arrays of slots -/

theorem populated_append {α : Type} (ident : α → Byte) (xs ys : List α) :
    populated ident (xs ++ ys) = populated ident xs ++ populated ident ys :=
  List.filter_append ..

theorem populated_eq_self {α : Type} {ident : α → Byte} {rs : List α} (h : ∀ r ∈ rs, ident r ≠ 0) :
    populated ident rs = rs :=
  List.filter_eq_self.2 fun r hr => by simpa using h r hr

theorem populated_eq_nil_iff {α : Type} {ident : α → Byte} {l : List α} :
    populated ident l = [] ↔ ∀ r ∈ l, ident r = 0 := by
  simp [populated]

theorem ident_ne_zero_of_mem_populated {α : Type} {ident : α → Byte} {l : List α} {r : α}
    (h : r ∈ populated ident l) : ident r ≠ 0 := by
  simpa using List.of_mem_filter h

theorem fillSlots_toList {α : Type} {n : Nat} (empty : α) {rs : List α} (h : rs.length ≤ n) :
    (fillSlots n empty rs).toList = rs ++ List.replicate (n - rs.length) empty := by
  refine List.ext_getElem (by simp; omega) fun i _ _ => ?_
  by_cases hi : i < rs.length
  · simp [fillSlots, hi]
  · simp [fillSlots, List.getElem_append_right (Nat.le_of_not_lt hi), List.getElem?_eq_none (Nat.le_of_not_lt hi)]

theorem populated_fillSlots {α : Type} {n : Nat} {ident : α → Byte} {empty : α} {rs : List α} (h : rs.length ≤ n)
    (hempty : ident empty = 0) (hrs : ∀ r ∈ rs, ident r ≠ 0) :
    populated ident (fillSlots n empty rs).toList = rs := by
  have hnil : populated ident (List.replicate (n - rs.length) empty) = [] :=
    populated_eq_nil_iff.2 fun r hr => List.eq_of_mem_replicate hr ▸ hempty
  rw [fillSlots_toList empty h, populated_append, populated_eq_self hrs, hnil, List.append_nil]

theorem getElem_fillSlots_of_lt {α : Type} {n : Nat} (empty : α) {rs : List α} {i : Fin n} (h : i.val < rs.length) :
    (fillSlots n empty rs)[i] = rs[i.val] := by
  simp [fillSlots, h]

theorem getElem_fillSlots_of_le {α : Type} {n : Nat} (empty : α) {rs : List α} {i : Fin n} (h : rs.length ≤ i.val) :
    (fillSlots n empty rs)[i] = empty := by
  simp [fillSlots, h]

theorem populatedExactly_fillSlots {α : Type} {ident : α → Byte} {empty : α} {rs : List α} (h : rs.length ≤ 8)
    (hempty : ident empty = 0) (hrs : ∀ r ∈ rs, ident r ≠ 0) :
    PopulatedExactly ident (fillSlots 8 empty rs) rs.length := by
  refine ⟨h, fun i => ?_⟩
  by_cases hi : i.val < rs.length
  · rw [getElem_fillSlots_of_lt empty hi]
    exact iff_of_true (hrs _ (List.getElem_mem hi)) hi
  · rw [getElem_fillSlots_of_le empty (Nat.le_of_not_lt hi)]
    exact iff_of_false (fun hne => hne hempty) hi

/-- Where exactly the first `n` slots are populated, they are the populated ones. -/
theorem PopulatedExactly.populated_eq_take {α : Type} {ident : α → Byte} {slots : Vector α 8} {n : Nat}
    (h : PopulatedExactly ident slots n) : populated ident slots.toList = slots.toList.take n := by
  obtain ⟨-, hiff⟩ := h
  have hlen : slots.toList.length = 8 := slots.length_toList
  have htake : ∀ r ∈ slots.toList.take n, ident r ≠ 0 := by
    intro r hr
    obtain ⟨i, hi, rfl⟩ := List.mem_take_iff_getElem.1 hr
    exact (hiff ⟨i, by omega⟩).2 (Nat.lt_min.1 hi).1
  have hdrop : ∀ r ∈ slots.toList.drop n, ident r = 0 := by
    intro r hr
    obtain ⟨i, hi, rfl⟩ := List.mem_drop_iff_getElem.1 hr
    exact not_not.1 fun hne => absurd ((hiff ⟨n + i, by omega⟩).1 hne) (Nat.not_lt.2 (Nat.le_add_right n i))
  conv_lhs => rw [← List.take_append_drop n slots.toList]
  rw [populated_append, populated_eq_self htake, populated_eq_nil_iff.2 hdrop, List.append_nil]

end Sys2Proof.Machine
end

section
/-! The servo operations (spec 40): what `SERVO_READ` decodes, what `SERVO_WRITE` stores, and the two round trips. -/

namespace Sys2Proof.Machine

/-! ### `SERVO_SIZE` and `SERVO_READ` -/

/-- Settles O32: the formula is at most 1531, so it is `RET` as it stands. -/
theorem servoSizeReturnsTheFormula : Obligations.ServoSizeReturnsTheFormula := by
  refine ⟨fun _ => rfl, fun n s hwf => ⟨BitVec.ofNat 16 (servoFrameSize n), rfl, ?_⟩⟩
  have hn : n < 256 := of_decide_eq_true hwf
  rw [servoFrameSize_eq, BitVec.toNat_ofNat, Nat.mod_eq_of_lt (by omega)]

/-- Settles O28: the two cases of `SERVO_READ`. -/
theorem servoReadDecodesExactlyValidFrames : Obligations.ServoReadDecodesExactlyValidFrames :=
  ⟨fun _ _ => rfl, fun _ _ s =>
    ⟨exec_servoRead_of_valid, fun h => ⟨(servoReadFails s).servo, exec_servoRead_of_not_valid h, rfl⟩⟩⟩

theorem decodedServos_eq (s : State) :
    decodedServos s = ⟨fillSlots 8 Servo.empty (servoSection s), s.fbByte 0, false⟩ :=
  (congrArg State.servo (servoReadSucceeds_servoSection s)).symm

@[simp] theorem length_servoSection (s : State) : (servoSection s).length = (s.fbByte 0).toNat := by
  simp [servoSection, recordsAt_eq_map_range]

theorem getElem_servoSection (s : State) {k : Nat} (h : k < (servoSection s).length) :
    (servoSection s)[k] = servoRecordAt s k := by
  simp only [servoSection, recordsAt_eq_map_range, List.getElem_map, List.getElem_range]
  rfl

/-- The records of a valid servo frame fit the eight slots and populate them (spec 30 R65 (c), (d)). -/
theorem ValidServoFrame.records_populate {s : State} {len : Nat} (h : ValidServoFrame s len) :
    (servoSection s).length ≤ 8 ∧ ∀ r ∈ servoSection s, r.id ≠ 0 := by
  obtain ⟨-, hn, hid, -⟩ := (validServoFrame_iff s len).1 h
  exact ⟨(length_servoSection s).trans_le hn, hid⟩

theorem ValidServoFrame.populatedSlots_decoded {s : State} {len : Nat} (h : ValidServoFrame s len) :
    (decodedServos s).populatedSlots = servoSection s := by
  obtain ⟨hle, hid⟩ := h.records_populate
  rw [decodedServos_eq]
  exact populated_fillSlots hle rfl hid

theorem ValidServoFrame.populatedExactly_decoded {s : State} {len : Nat} (h : ValidServoFrame s len) :
    PopulatedExactly Servo.id (decodedServos s).servos (s.fbByte 0).toNat := by
  obtain ⟨hle, hid⟩ := h.records_populate
  rw [decodedServos_eq, ← length_servoSection]
  exact populatedExactly_fillSlots hle rfl hid

theorem decodedServos_slot_of_lt (s : State) {i : Fin 8} (h : i.val < (s.fbByte 0).toNat) :
    (decodedServos s).servos[i] = servoRecordAt s i.val := by
  simp [decodedServos, h]

theorem decodedServos_slot_of_le (s : State) {i : Fin 8} (h : (s.fbByte 0).toNat ≤ i.val) :
    (decodedServos s).servos[i] = Servo.empty := by
  simp [decodedServos, Nat.not_lt.2 h]

/-- Two records of a valid frame have different identifiers, whichever comes first (spec 30 R65 (e)). -/
theorem ValidServoFrame.ids_ne {s : State} {len j k : Nat} (h : ValidServoFrame s len) (hj : j < (s.fbByte 0).toNat)
    (hk : k < (s.fbByte 0).toNat) (hjk : j ≠ k) : (servoRecordAt s j).id ≠ (servoRecordAt s k).id := by
  obtain ⟨-, -, -, -, hdistinct⟩ := h
  rcases Nat.lt_or_gt_of_ne hjk with hlt | hgt
  · exact hdistinct k hk j hlt
  · exact (hdistinct j hj k hgt).symm

theorem ValidServoFrame.distinctIds_decoded {s : State} {len : Nat} (h : ValidServoFrame s len) :
    (decodedServos s).DistinctIds := by
  obtain ⟨-, hiff⟩ := h.populatedExactly_decoded
  intro i j hij hi heq
  have hj := heq ▸ hi
  rw [hiff] at hi hj
  rw [decodedServos_slot_of_lt s hi, decodedServos_slot_of_lt s hj] at heq
  exact h.ids_ne hi hj (Fin.val_ne_of_ne hij) heq

/-- Settles O29: with the flag 0 the frame was valid, and `SERVO` is the decoded collection. -/
theorem servoReadPostconditions : Obligations.ServoReadPostconditions := by
  intro src len s t h hflag
  by_cases hv : src = true ∧ ValidServoFrame s len
  · obtain rfl := next_unique (exec_servoRead_of_valid hv) h
    obtain ⟨-, hvalid⟩ := hv
    have hexactly := hvalid.populatedExactly_decoded
    refine ⟨rfl, hexactly.1, hexactly, fun i => decodedServos_slot_of_lt s, fun i => decodedServos_slot_of_le s,
      hvalid.distinctIds_decoded, ?_⟩
    rw [State.setServo_servo, hvalid.populatedSlots_decoded, length_servoSection]
    rfl
  · obtain rfl := next_unique (exec_servoRead_of_not_valid hv) h
    simp at hflag

/-! ### `SERVO_WRITE` -/

/-- `SERVO_WRITE` where the frame fits: the frame stored, its length in `RET`, nothing else changed. -/
theorem exec_servoWrite_stores {cap : Nat} {s : State} (h : 1 + 6 * s.servo.populatedSlots.length ≤ cap) :
    ∃ t, exec (.servoWrite true true cap) s = .next t ∧ t.ret.toNat = 1 + 6 * s.servo.emitted.length ∧
      FrameStored s t (servoFrameBytes s.servo) ∧ t = { s with ret := t.ret, fb := t.fb } := by
  obtain ⟨m, hm, hwrote⟩ := exec_servoWrite_of_fits h
  refine ⟨_, hm, ?_, hwrote.frameStored, ?_⟩
  · rw [← servoFrameBytes_length]
    exact setRetNat_frame_ret_toNat m (.servoWrite true true cap) s
  · obtain ⟨fb, rfl⟩ := hwrote.exists_setFb
    rfl

theorem exec_servoWrite_of_absent {dst obj : Bool} {cap : Nat} {s : State}
    (h : dst = false ∨ obj = false ∨ cap < 1 + 6 * s.servo.populatedSlots.length) :
    exec (.servoWrite dst obj cap) s = .next (s.setRet 0) := by
  refine exec_of_not_writes rfl ?_
  rintro ⟨rfl, rfl, hfits⟩
  have hsmall : cap < 1 + 6 * s.servo.populatedSlots.length := by simpa using h
  exact Nat.not_le.2 hsmall hfits

/-- Settles O30: the two cases of `SERVO_WRITE`. -/
theorem servoWriteEncodesTheSlots : Obligations.ServoWriteEncodesTheSlots := by
  refine ⟨fun _ _ _ => rfl, fun dst obj cap s => ⟨exec_servoWrite_of_absent, ?_⟩⟩
  rintro rfl rfl hfits
  obtain ⟨t, ht, hret, hstored, hframe⟩ := exec_servoWrite_stores hfits
  exact ⟨t, ht, hret, hstored, (servoFrameBytes_length s.servo).trans hret.symm, hframe⟩

/-! ### The populated slots below `nb_servos` and the others (spec 40 R104, C1) -/

/-- The populated slots that `SERVO_WRITE` counts but does not emit. -/
def ServoGroup.unemitted (g : ServoGroup) : List Servo :=
  populated Servo.id (g.servos.toList.drop (min g.nbServos.toNat 8))

theorem populatedSlots_eq_append (g : ServoGroup) : g.populatedSlots = g.emitted ++ g.unemitted := by
  rw [ServoGroup.emitted, ServoGroup.unemitted, ← populated_append, List.take_append_drop]
  rfl

theorem covered_iff (g : ServoGroup) : g.Covered ↔ g.unemitted = [] := by
  have hslots : g.servos.toList.length = 8 := g.servos.length_toList
  simp only [ServoGroup.unemitted, populated_eq_nil_iff, List.mem_drop_iff_getElem]
  constructor
  · rintro hcov r ⟨k, hk, rfl⟩
    by_contra hne
    have hbelow : min g.nbServos.toNat 8 + k < g.nbServos.toNat := hcov ⟨min g.nbServos.toNat 8 + k, by omega⟩ hne
    omega
  · intro hall i hne
    by_contra hbeyond
    have hindex : min g.nbServos.toNat 8 + (i.val - g.nbServos.toNat) = i.val := by omega
    exact hne (hall _ ⟨i.val - g.nbServos.toNat, by omega, by simp [hindex]⟩)

theorem covered_iff_length (g : ServoGroup) : g.Covered ↔ g.emitted.length = g.populatedSlots.length := by
  rw [covered_iff, populatedSlots_eq_append, List.length_append, ← List.length_eq_zero_iff]
  omega

theorem ServoGroup.Covered.emitted_eq {g : ServoGroup} (h : g.Covered) : g.emitted = g.populatedSlots := by
  rw [populatedSlots_eq_append, (covered_iff g).1 h, List.append_nil]

theorem ServoGroup.populatedSlots_length_le (g : ServoGroup) : g.populatedSlots.length ≤ 8 :=
  length_populated_le Servo.id g.servos

/-- Settles O31: by whether `SERVO_WRITE` writes; under condition W it emits every populated slot. -/
theorem servoWriteReturnValue : Obligations.ServoWriteReturnValue := by
  intro dst obj cap s
  have hle := emitted_length_le_populatedSlots s.servo
  have hle8 := s.servo.populatedSlots_length_le
  by_cases habsent : dst = false ∨ obj = false ∨ cap < 1 + 6 * s.servo.populatedSlots.length
  · exact ⟨_, exec_servoWrite_of_absent habsent, hle, hle8, .inl rfl, iff_of_true rfl habsent, fun _ _ => rfl,
      by simp, by simp⟩
  · obtain ⟨rfl, rfl, hfits⟩ : dst = true ∧ obj = true ∧ 1 + 6 * s.servo.populatedSlots.length ≤ cap := by
      simpa using habsent
    obtain ⟨t, ht, hret, hstored, -⟩ := exec_servoWrite_stores hfits
    refine ⟨t, ht, hle, hle8, .inr hret, iff_of_false (by omega) habsent, by omega,
      fun _ => ⟨by omega, hstored, (servoFrameBytes_length s.servo).trans hret.symm⟩, fun hcov _ => ?_⟩
    rw [hret, hcov.emitted_eq, servoFrameSize_eq]

/-! ### The frame in `FB` after a `SERVO_WRITE` -/

theorem fbByte_zero_of_frameStored {s t : State} {g : ServoGroup} (h : FrameStored s t (servoFrameBytes g)) :
    (t.fbByte 0).toNat = g.populatedSlots.length := by
  have hcount : t.fbByte 0 = BitVec.ofNat 8 g.populatedSlots.length := h 0
  have hle := g.populatedSlots_length_le
  rw [hcount, BitVec.toNat_ofNat, Nat.mod_eq_of_lt (by omega)]

theorem servoSection_of_frameStored {s t : State} {g : ServoGroup} (hcov : g.Covered)
    (h : FrameStored s t (servoFrameBytes g)) : servoSection t = g.populatedSlots := by
  have hbytes : HoldsAt t 1 (g.populatedSlots.flatMap servoRecordBytes) := by
    rw [← hcov.emitted_eq]
    exact h.holdsAt.right (xs := [_])
  rw [servoSection, fbByte_zero_of_frameStored h]
  exact recordsAt_of_holdsAt servoRecords_lawful hbytes

theorem ServoGroup.DistinctIds.pairwise {g : ServoGroup} (h : g.DistinctIds) :
    g.populatedSlots.Pairwise fun q r => q.id ≠ r.id := by
  refine List.pairwise_filter.2 (List.pairwise_iff_getElem.2 fun i j hi hj hij hne _ => ?_)
  exact h ⟨i, by simpa using hi⟩ ⟨j, by simpa using hj⟩ (Fin.ne_of_lt hij) (by simpa using hne)

theorem validServoFrame_of_frameStored {s t : State} {g : ServoGroup} (hcov : g.Covered) (hids : g.DistinctIds)
    (h : FrameStored s t (servoFrameBytes g)) : ValidServoFrame t (1 + 6 * g.populatedSlots.length) := by
  rw [validServoFrame_iff, servoSection_of_frameStored hcov h, fbByte_zero_of_frameStored h]
  exact ⟨rfl, g.populatedSlots_length_le, fun r hr => ident_ne_zero_of_mem_populated hr,
    fun _ => ⟨by simp, hids.pairwise⟩⟩

/-- Settles O36: the count byte counts a slot that is not emitted, so `RET` is too short for it. -/
theorem uncoveredServoSlotSpoilsTheFrame : Obligations.UncoveredServoSlotSpoilsTheFrame := by
  intro s t cap hcov h hpos
  have hfits : 1 + 6 * s.servo.populatedSlots.length ≤ cap := by
    by_contra hsmall
    obtain rfl := next_unique (exec_servoWrite_of_absent (.inr (.inr (Nat.lt_of_not_le hsmall)))) h
    simp at hpos
  obtain ⟨t', ht', hret, hstored, -⟩ := exec_servoWrite_stores hfits
  obtain rfl := next_unique ht' h
  have hinvalid : ¬ ValidServoFrame t' t'.ret.toNat := by
    rintro ⟨-, hlen, -⟩
    rw [fbByte_zero_of_frameStored hstored] at hlen
    exact hcov ((covered_iff_length s.servo).2 (by omega))
  exact ⟨hinvalid, _, exec_servoRead_of_not_valid fun hv => hinvalid hv.2, rfl⟩

/-! ### Encoding and then decoding (spec 40 R106) -/

/-- The round trip of a collection with condition W and distinct identifiers: `SERVO` becomes its populated slots,
moved down to slots 0 up. -/
theorem exec_servoWrite_servoRead {cap : Nat} {s : State} (hcov : s.servo.Covered) (hids : s.servo.DistinctIds)
    (hfits : 1 + 6 * s.servo.populatedSlots.length ≤ cap) :
    ∃ t u, exec (.servoWrite true true cap) s = .next t ∧ exec (.servoRead true t.ret.toNat) t = .next u ∧
      u.servo.servos = fillSlots 8 Servo.empty s.servo.populatedSlots ∧
      u.servo.nbServos.toNat = s.servo.populatedSlots.length ∧ u.servo.parsingFailed = false := by
  obtain ⟨t, ht, hret, hstored, -⟩ := exec_servoWrite_stores hfits
  rw [hcov.emitted_eq] at hret
  have hvalid := validServoFrame_of_frameStored hcov hids hstored
  rw [← hret] at hvalid
  refine ⟨t, _, ht, exec_servoRead_of_valid ⟨rfl, hvalid⟩, ?_, fbByte_zero_of_frameStored hstored, rfl⟩
  rw [State.setServo_servo, decodedServos_eq, servoSection_of_frameStored hcov hstored]

/-- Settles O33: no populated slot is empty, so the populated slots of the collection that comes back are the ones it
was filled with. -/
theorem servoRoundTripCompacts : Obligations.ServoRoundTripCompacts := by
  intro s cap hcov hids hfits
  obtain ⟨t, u, ht, hu, hslots, hcount, hflag⟩ := exec_servoWrite_servoRead hcov hids hfits
  have hle := s.servo.populatedSlots_length_le
  have hid : ∀ r ∈ s.servo.populatedSlots, r.id ≠ 0 := fun r => ident_ne_zero_of_mem_populated
  refine ⟨t, u, ht, hu, hflag, hcount, ?_, ?_⟩
  · rw [ServoGroup.populatedSlots, hslots]
    exact populated_fillSlots hle rfl hid
  · rw [hslots]
    exact populatedExactly_fillSlots hle rfl hid

/-- Settles O34: the populated slots are the first `n`, so moving them down leaves each in its place. -/
theorem servoRoundTripKeepsADisciplinedCollection : Obligations.ServoRoundTripKeepsADisciplinedCollection := by
  intro s n cap hexactly hids hcount hfits
  have hpop : s.servo.populatedSlots = s.servo.servos.toList.take n := hexactly.populated_eq_take
  obtain ⟨hn, hiff⟩ := hexactly
  have hlen : s.servo.populatedSlots.length = n := by simp [hpop, hn]
  have hcov : s.servo.Covered := fun i hi => hcount ▸ (hiff i).1 hi
  obtain ⟨t, u, ht, hu, hslots, hnb, hflag⟩ := exec_servoWrite_servoRead hcov hids (hlen ▸ hfits)
  refine ⟨t, u, ht, hu, hflag, hnb.trans hlen, fun i hi => ?_, fun i hi => ?_⟩
  · rw [hslots, getElem_fillSlots_of_lt Servo.empty (hlen ▸ hi)]
    simp [hpop]
  · rw [hslots, getElem_fillSlots_of_le Servo.empty (hlen.trans_le hi)]

/-! ### Decoding and then encoding (spec 40 R106) -/

theorem ValidServoFrame.emitted_decoded {s : State} {len : Nat} (h : ValidServoFrame s len) :
    (decodedServos s).emitted = servoSection s := by
  obtain ⟨-, hiff⟩ := h.populatedExactly_decoded
  have hcov : (decodedServos s).Covered := fun i => (hiff i).1
  rw [hcov.emitted_eq, h.populatedSlots_decoded]

/-- One record decoded and encoded: its six bytes, bits 7:6 of the status byte cleared (spec 30 R75). -/
theorem servoRecordBytes_servoAt (s : State) (p : Nat) :
    servoRecordBytes (servoAt s p) = [s.fbByte p, s.fbByte (p + 1), s.fbByte (p + 2), s.fbByte (p + 3),
      s.fbByte (p + 4), s.fbByte (p + 5) &&& 0x3F#8] := by
  simp only [servoRecordBytes, servoAt, packServoStatus_unpack]
  simp [unpackServo, highByte_bigEndian, lowByte_bigEndian]

/-- Records begin at the bytes `1 + 6k`, so byte 5 of a record, and no other, is a status byte. -/
theorem map_servoByteCleaned_record (s : State) {p : Nat} (hp : p % 6 = 1) :
    (List.range' p 6).map (servoByteCleaned s) = [s.fbByte p, s.fbByte (p + 1), s.fbByte (p + 2), s.fbByte (p + 3),
      s.fbByte (p + 4), s.fbByte (p + 5) &&& 0x3F#8] := by
  have hfirst : servoByteCleaned s p = s.fbByte p := if_neg (by omega)
  have hkeep : ∀ k, k < 5 → servoByteCleaned s (p + k) = s.fbByte (p + k) := fun k _ => if_neg (by omega)
  have hstatus : servoByteCleaned s (p + 5) = s.fbByte (p + 5) &&& 0x3F#8 := if_pos (by omega)
  simp [List.range', Nat.add_assoc, hfirst, hkeep, hstatus]

theorem flatMap_servoRecordBytes_recordsAt (s : State) (n : Nat) {p : Nat} (hp : p % 6 = 1) :
    (recordsAt servoAt 6 s n p).flatMap servoRecordBytes = (List.range' p (6 * n)).map (servoByteCleaned s) := by
  induction n generalizing p with
  | zero => rfl
  | succ n ih =>
    rw [recordsAt, List.flatMap_cons, ih (by omega), servoRecordBytes_servoAt, ← map_servoByteCleaned_record s hp,
      ← List.map_append, List.range'_append_1, Nat.mul_succ, Nat.add_comm 6]

/-- The frame of a decoded frame is the frame itself, cleaned. -/
theorem ValidServoFrame.servoFrameBytes_decoded {s : State} {len : Nat} (h : ValidServoFrame s len) :
    servoFrameBytes (decodedServos s) = (List.range' 0 len).map (servoByteCleaned s) := by
  obtain ⟨hlen, -⟩ := (validServoFrame_iff s len).1 h
  have hrecords : emittedBytes (decodedServos s) =
      (List.range' 1 (6 * (s.fbByte 0).toNat)).map (servoByteCleaned s) := by
    rw [emittedBytes, h.emitted_decoded]
    exact flatMap_servoRecordBytes_recordsAt s _ rfl
  have hcount : BitVec.ofNat 8 (s.fbByte 0).toNat = servoByteCleaned s 0 := by simp [servoByteCleaned]
  rw [servoFrameBytes_eq, hrecords, h.populatedSlots_decoded, length_servoSection, hcount, hlen, Nat.add_comm 1,
    List.range'_succ, List.map_cons]
  rfl

/-- Settles O35: `SERVO_WRITE` stores the frame of the decoded collection, which is the cleaned frame. -/
theorem servoFrameRoundTrip : Obligations.ServoFrameRoundTrip := by
  intro s len h
  have hframe := h.servoFrameBytes_decoded
  obtain ⟨hlen, -⟩ := (validServoFrame_iff s len).1 h
  have hfits : 1 + 6 * (s.setServo (decodedServos s)).servo.populatedSlots.length ≤ len := by
    rw [State.setServo_servo, h.populatedSlots_decoded, length_servoSection, hlen]
  obtain ⟨u, hu, hret, hstored, -⟩ := exec_servoWrite_stores hfits
  refine ⟨_, u, exec_servoRead_of_valid ⟨rfl, h⟩, hu, ?_, fun a ha => ?_⟩
  · rw [hret, State.setServo_servo, h.emitted_decoded, length_servoSection, hlen]
  · have hbytes : HoldsAt u 0 ((List.range' 0 len).map (servoByteCleaned s)) := hframe ▸ hstored.holdsAt
    have hlt : a < ((List.range' 0 len).map (servoByteCleaned s)).length := by simpa using ha
    simpa using hbytes a hlt

end Sys2Proof.Machine
end

section
/-! The motor operations (spec 41): what `MOTOR_READ` decodes, what `MOTOR_WRITE` stores, and the two round trips. -/

namespace Sys2Proof.Machine

/-! ### `MOTOR_SIZE` and `MOTOR_READ` -/

/-- Settles O41: the formula is at most 2043, so it is `RET` as it stands. -/
theorem motorSizeReturnsTheFormula : Obligations.MotorSizeReturnsTheFormula := by
  refine ⟨fun _ _ _ => rfl, fun c u b s hwf => ⟨BitVec.ofNat 16 (motorFrameSize c u b), rfl, ?_⟩⟩
  simp only [Instr.wellFormed, Bool.and_eq_true, decide_eq_true_eq] at hwf
  rw [motorFrameSize_eq, BitVec.toNat_ofNat, Nat.mod_eq_of_lt (by omega)]

/-- Settles O37: the two cases of `MOTOR_READ`. -/
theorem motorReadDecodesExactlyValidFrames : Obligations.MotorReadDecodesExactlyValidFrames :=
  ⟨fun _ _ => rfl, fun _ _ s =>
    ⟨exec_motorRead_of_valid, fun h => ⟨(motorReadFails s).motor, exec_motorRead_of_not_valid h, rfl⟩⟩⟩

theorem decodedMotors_eq (s : State) :
    decodedMotors s = ⟨fillSlots 8 Controlled.empty (controlledSection s),
      fillSlots 8 Uncontrolled.empty (uncontrolledSection s), fillSlots 8 Brushless.empty (brushlessSection s), false⟩ :=
  (congrArg State.motor (motorReadSucceeds_sections s)).symm

@[simp] theorem length_recordsAt {α : Type} (at0 : State → Nat → α) (size : Nat) (s : State) (n base : Nat) :
    (recordsAt at0 size s n base).length = n := by
  simp [recordsAt_eq_map_range]

@[simp] theorem length_controlledSection (s : State) : (controlledSection s).length = (s.fbByte 0).toNat :=
  length_recordsAt ..

@[simp] theorem length_uncontrolledSection (s : State) : (uncontrolledSection s).length = (s.fbByte 1).toNat :=
  length_recordsAt ..

@[simp] theorem length_brushlessSection (s : State) : (brushlessSection s).length = (s.fbByte 2).toNat :=
  length_recordsAt ..

/-- The motor sections allow duplicate identifiers (spec 41 R121, C2, C3): none may be 0, and that is all. -/
theorem sectionOk_not_unique_iff {α : Type} {ident : α → Byte} {placed rs : List α} :
    SectionOk ident false placed rs ↔ ∀ r ∈ rs, ident r ≠ 0 := by
  simp [SectionOk]

/-- The records of a valid motor frame fit the slots of their arrays and populate them (spec 30 R72 (c), (d)). -/
theorem ValidMotorFrame.records_populate {s : State} {len : Nat} (h : ValidMotorFrame s len) :
    ((controlledSection s).length ≤ 8 ∧ ∀ r ∈ controlledSection s, r.id ≠ 0) ∧
    ((uncontrolledSection s).length ≤ 8 ∧ ∀ r ∈ uncontrolledSection s, r.id ≠ 0) ∧
    ((brushlessSection s).length ≤ 8 ∧ ∀ r ∈ brushlessSection s, r.id ≠ 0) := by
  obtain ⟨-, ⟨hc, hu, hb⟩, okC, okU, okB⟩ := (validMotorFrame_iff s len).1 h
  rw [length_controlledSection, length_uncontrolledSection, length_brushlessSection]
  exact ⟨⟨hc, sectionOk_not_unique_iff.1 okC⟩, ⟨hu, sectionOk_not_unique_iff.1 okU⟩,
    ⟨hb, sectionOk_not_unique_iff.1 okB⟩⟩

theorem ValidMotorFrame.populatedExactly_decoded {s : State} {len : Nat} (h : ValidMotorFrame s len) :
    PopulatedExactly Controlled.id (decodedMotors s).controlled (s.fbByte 0).toNat ∧
    PopulatedExactly Uncontrolled.id (decodedMotors s).uncontrolled (s.fbByte 1).toNat ∧
    PopulatedExactly Brushless.id (decodedMotors s).brushless (s.fbByte 2).toNat := by
  obtain ⟨⟨hc, idC⟩, ⟨hu, idU⟩, ⟨hb, idB⟩⟩ := h.records_populate
  rw [decodedMotors_eq, ← length_controlledSection, ← length_uncontrolledSection, ← length_brushlessSection]
  exact ⟨populatedExactly_fillSlots hc rfl idC, populatedExactly_fillSlots hu rfl idU,
    populatedExactly_fillSlots hb rfl idB⟩

theorem PopulatedExactly.length_populated {α : Type} {ident : α → Byte} {slots : Vector α 8} {n : Nat}
    (h : PopulatedExactly ident slots n) : (populated ident slots.toList).length = n := by
  rw [h.populated_eq_take, List.length_take, slots.length_toList]
  exact Nat.min_eq_left h.1

/-- Settles O38: with the flag 0 the frame was valid, and `MOTOR` is the decoded collection. -/
theorem motorReadPostconditions : Obligations.MotorReadPostconditions := by
  intro src len s t h hflag
  by_cases hv : src = true ∧ ValidMotorFrame s len
  · obtain rfl := next_unique (exec_motorRead_of_valid hv) h
    obtain ⟨-, hvalid⟩ := hv
    obtain ⟨hc, hu, hb⟩ := hvalid.populatedExactly_decoded
    exact ⟨hc, hu, hb, rfl, hc.length_populated, hu.length_populated, hb.length_populated⟩
  · obtain rfl := next_unique (exec_motorRead_of_not_valid hv) h
    simp at hflag

/-! ### `MOTOR_WRITE` -/

/-- `MOTOR_WRITE` where the frame fits: the frame stored, its length in `RET`, nothing else changed. -/
theorem exec_motorWrite_stores {cap : Nat} {s : State} (h : (motorFrameBytes s.motor).length ≤ cap) :
    ∃ t, exec (.motorWrite true true cap) s = .next t ∧ t.ret.toNat = (motorFrameBytes s.motor).length ∧
      FrameStored s t (motorFrameBytes s.motor) ∧ t = { s with ret := t.ret, fb := t.fb } := by
  obtain ⟨m, hm, hwrote⟩ := exec_motorWrite_of_fits h
  refine ⟨_, hm, setRetNat_frame_ret_toNat m (.motorWrite true true cap) s, hwrote.frameStored, ?_⟩
  obtain ⟨fb, rfl⟩ := hwrote.exists_setFb
  rfl

theorem exec_motorWrite_of_absent {dst obj : Bool} {cap : Nat} {s : State}
    (h : dst = false ∨ obj = false ∨ cap < (motorFrameBytes s.motor).length) :
    exec (.motorWrite dst obj cap) s = .next (s.setRet 0) := by
  refine exec_of_not_writes rfl ?_
  rintro ⟨rfl, rfl, hfits⟩
  have hsmall : cap < (motorFrameBytes s.motor).length := by simpa using h
  exact Nat.not_le.2 hsmall hfits

/-- Settles O39: the two cases of `MOTOR_WRITE`. -/
theorem motorWriteEncodesTheSlots : Obligations.MotorWriteEncodesTheSlots := by
  refine ⟨fun _ _ _ => rfl, fun dst obj cap s => ?_⟩
  have hneed := motorFrameBytes_length s.motor
  rw [motorFrameSize_eq] at hneed
  simp only [← hneed]
  refine ⟨exec_motorWrite_of_absent, ?_⟩
  rintro rfl rfl hfits
  obtain ⟨t, ht, hret, hstored, hframe⟩ := exec_motorWrite_stores hfits
  exact ⟨t, ht, hret, hstored, trivial, hframe⟩

/-! ### The frame in `FB` after a `MOTOR_WRITE` -/

/-- The number of populated slots fits its count byte (spec 41 R124 (a)). -/
theorem toNat_ofNat_length_populated {α : Type} (ident : α → Byte) (slots : Vector α 8) :
    (BitVec.ofNat 8 (populated ident slots.toList).length).toNat = (populated ident slots.toList).length := by
  have hle := length_populated_le ident slots
  rw [BitVec.toNat_ofNat, Nat.mod_eq_of_lt (by omega)]

theorem motorCounts_of_frameStored {s t : State} {g : MotorGroup} (h : FrameStored s t (motorFrameBytes g)) :
    (t.fbByte 0).toNat = (populated Controlled.id g.controlled.toList).length ∧
    (t.fbByte 1).toNat = (populated Uncontrolled.id g.uncontrolled.toList).length ∧
    (t.fbByte 2).toNat = (populated Brushless.id g.brushless.toList).length :=
  ⟨(congrArg BitVec.toNat (h 0)).trans (toNat_ofNat_length_populated ..),
    (congrArg BitVec.toNat (h 1)).trans (toNat_ofNat_length_populated ..),
    (congrArg BitVec.toNat (h 2)).trans (toNat_ofNat_length_populated ..)⟩

theorem length_controlledBytes (g : MotorGroup) :
    (controlledBytes g).length = 4 * (populated Controlled.id g.controlled.toList).length :=
  length_flatMap_bytes controlledRecords_lawful _

theorem length_uncontrolledBytes (g : MotorGroup) :
    (uncontrolledBytes g).length = 2 * (populated Uncontrolled.id g.uncontrolled.toList).length :=
  length_flatMap_bytes uncontrolledRecords_lawful _

/-- The sections of a stored frame begin where its counts put them (spec 30 R67), so they read back as the records
they were made of. -/
theorem motorSections_of_frameStored {s t : State} {g : MotorGroup} (h : FrameStored s t (motorFrameBytes g)) :
    controlledSection t = populated Controlled.id g.controlled.toList ∧
    uncontrolledSection t = populated Uncontrolled.id g.uncontrolled.toList ∧
    brushlessSection t = populated Brushless.id g.brushless.toList := by
  obtain ⟨hc, hu, hb⟩ := motorCounts_of_frameStored h
  have hframe := h.holdsAt
  rw [motorFrameBytes_eq] at hframe
  have atC : HoldsAt t 3 (controlledBytes g) := hframe.left.left.right
  have atU := hframe.left.right
  have atB := hframe.right
  have hheader : (motorHeader g).length = 3 := rfl
  simp only [List.length_append, hheader, length_controlledBytes, length_uncontrolledBytes, Nat.zero_add] at atU atB
  rw [controlledSection, uncontrolledSection, brushlessSection, hc, hu, hb]
  exact ⟨recordsAt_of_holdsAt controlledRecords_lawful atC, recordsAt_of_holdsAt uncontrolledRecords_lawful atU,
    recordsAt_of_holdsAt brushlessRecords_lawful atB⟩

theorem validMotorFrame_of_frameStored {s t : State} {g : MotorGroup} (h : FrameStored s t (motorFrameBytes g)) :
    ValidMotorFrame t (motorFrameBytes g).length := by
  obtain ⟨hc, hu, hb⟩ := motorCounts_of_frameStored h
  obtain ⟨secC, secU, secB⟩ := motorSections_of_frameStored h
  rw [validMotorFrame_iff, MotorCountsOk, MotorSectionsOk, secC, secU, secB, hc, hu, hb]
  simp only [sectionOk_not_unique_iff]
  exact ⟨motorFrameBytes_length g, ⟨length_populated_le .., length_populated_le .., length_populated_le ..⟩,
    fun r => ident_ne_zero_of_mem_populated, fun r => ident_ne_zero_of_mem_populated,
    fun r => ident_ne_zero_of_mem_populated⟩

/-- Settles O40: by whether `MOTOR_WRITE` writes. -/
theorem motorWriteLeavesAValidFrame : Obligations.MotorWriteLeavesAValidFrame := by
  intro dst obj cap s
  have hneed := motorFrameBytes_length s.motor
  rw [motorFrameSize_eq] at hneed
  have hle := motorFrameBytes_length_le s.motor
  simp only [← hneed]
  refine ⟨⟨length_populated_le .., length_populated_le .., length_populated_le ..⟩, ?_⟩
  by_cases habsent : dst = false ∨ obj = false ∨ cap < (motorFrameBytes s.motor).length
  · exact ⟨_, exec_motorWrite_of_absent habsent, .inl rfl, iff_of_true rfl habsent, fun _ _ => rfl, by simp⟩
  · obtain ⟨rfl, rfl, hfits⟩ : dst = true ∧ obj = true ∧ (motorFrameBytes s.motor).length ≤ cap := by
      simpa using habsent
    obtain ⟨t, ht, hret, hstored, -⟩ := exec_motorWrite_stores hfits
    refine ⟨t, ht, .inr ⟨hret, by omega, by omega⟩, iff_of_false (by omega) habsent, by omega,
      fun _ => ⟨by omega, hret, hstored, ?_⟩⟩
    rw [hret]
    exact validMotorFrame_of_frameStored hstored

/-! ### Encoding and then decoding (spec 41 R126) -/

/-- Settles O42: the stored frame is valid, and its sections are the populated slots. -/
theorem motorRoundTripCompacts : Obligations.MotorRoundTripCompacts := by
  intro s cap hfits
  obtain ⟨t, ht, hret, hstored, -⟩ := exec_motorWrite_stores hfits
  have hvalid := validMotorFrame_of_frameStored hstored
  rw [← hret] at hvalid
  obtain ⟨secC, secU, secB⟩ := motorSections_of_frameStored hstored
  refine ⟨t, _, ht, exec_motorRead_of_valid ⟨rfl, hvalid⟩, rfl, ?_⟩
  rw [State.setMotor_motor, decodedMotors_eq, secC, secU, secB]
  exact ⟨fillSlots_toList _ (length_populated_le ..), fillSlots_toList _ (length_populated_le ..),
    fillSlots_toList _ (length_populated_le ..)⟩

/-! ### Decoding and then encoding (spec 41 R126) -/

theorem ValidMotorFrame.populated_decoded {s : State} {len : Nat} (h : ValidMotorFrame s len) :
    populated Controlled.id (decodedMotors s).controlled.toList = controlledSection s ∧
    populated Uncontrolled.id (decodedMotors s).uncontrolled.toList = uncontrolledSection s ∧
    populated Brushless.id (decodedMotors s).brushless.toList = brushlessSection s := by
  obtain ⟨⟨hc, idC⟩, ⟨hu, idU⟩, ⟨hb, idB⟩⟩ := h.records_populate
  rw [decodedMotors_eq]
  exact ⟨populated_fillSlots hc rfl idC, populated_fillSlots hu rfl idU, populated_fillSlots hb rfl idB⟩

/-- A section decoded and encoded, byte by byte, from what decoding and encoding does to each of its records. -/
theorem flatMap_bytes_recordsAt {α : Type} {bytes : α → List Byte} {at0 : State → Nat → α} {size : Nat} {s : State}
    {f : Nat → Byte} {n p : Nat}
    (h : ∀ k, k < n → bytes (at0 s (p + size * k)) = (List.range' (p + size * k) size).map f) :
    (recordsAt at0 size s n p).flatMap bytes = (List.range' p (size * n)).map f := by
  induction n generalizing p with
  | zero => rfl
  | succ n ih =>
    have hrest : ∀ k, k < n → bytes (at0 s (p + size + size * k)) = (List.range' (p + size + size * k) size).map f := by
      intro k hk
      rw [Nat.add_assoc, Nat.add_comm size, ← Nat.mul_succ]
      exact h (k + 1) (Nat.succ_lt_succ hk)
    rw [recordsAt, List.flatMap_cons, ih hrest, show bytes (at0 s p) = _ from h 0 n.succ_pos, Nat.mul_zero,
      Nat.add_zero, ← List.map_append, List.range'_append_1, Nat.mul_succ, Nat.add_comm size]

/-- One controlled record decoded and encoded: byte 3, its status byte, has bits 7:2 cleared (spec 30 R68, R75). -/
theorem controlledRecordBytes_controlledAt (s : State) {k : Nat} (hk : k < (s.fbByte 0).toNat) :
    controlledRecordBytes (controlledAt s (3 + 4 * k)) = (List.range' (3 + 4 * k) 4).map (motorByteCleaned s) := by
  generalize hp : 3 + 4 * k = p
  have hkeep : ∀ j, j < 3 → motorByteCleaned s (p + j) = s.fbByte (p + j) := fun j hj => by
    rw [motorByteCleaned, if_neg (by omega), if_neg (by omega)]
  have hid : motorByteCleaned s p = s.fbByte p := hkeep 0 (by decide)
  have hstatus : motorByteCleaned s (p + 3) = s.fbByte (p + 3) &&& 0x03#8 := if_pos (by omega)
  rw [controlledRecordBytes, controlledAt, packControlledStatus_unpack]
  simp [unpackControlled, List.range', Nat.add_assoc, hid, hkeep, hstatus]

/-- One uncontrolled record decoded and encoded: byte 1, its status byte, has bits 7:2 cleared (spec 30 R69, R75). -/
theorem uncontrolledRecordBytes_uncontrolledAt (s : State) {k : Nat} (hk : k < (s.fbByte 1).toNat) :
    uncontrolledRecordBytes (uncontrolledAt s (3 + 4 * (s.fbByte 0).toNat + 2 * k)) =
      (List.range' (3 + 4 * (s.fbByte 0).toNat + 2 * k) 2).map (motorByteCleaned s) := by
  generalize hp : 3 + 4 * (s.fbByte 0).toNat + 2 * k = p
  have hid : motorByteCleaned s p = s.fbByte p := by
    rw [motorByteCleaned, if_neg (by omega), if_neg (by omega)]
  have hstatus : motorByteCleaned s (p + 1) = s.fbByte (p + 1) &&& 0x03#8 := by
    rw [motorByteCleaned, if_neg (by omega), if_pos (by omega)]
  rw [uncontrolledRecordBytes, uncontrolledAt, packUncontrolledStatus_unpack]
  simp [unpackUncontrolled, List.range', hid, hstatus]

/-- No byte outside the controlled and uncontrolled sections is a status byte. -/
theorem motorByteCleaned_outside (s : State) {a : Nat}
    (h : a < 3 ∨ 3 + 4 * (s.fbByte 0).toNat + 2 * (s.fbByte 1).toNat ≤ a) : motorByteCleaned s a = s.fbByte a := by
  rw [motorByteCleaned, if_neg (by omega), if_neg (by omega)]

/-- A brushless record has no status byte (spec 30 R70, D13). -/
theorem brushlessRecordBytes_brushlessAt (s : State) {p : Nat}
    (h : 3 + 4 * (s.fbByte 0).toNat + 2 * (s.fbByte 1).toNat ≤ p) :
    brushlessRecordBytes (brushlessAt s p) = (List.range' p 2).map (motorByteCleaned s) := by
  simp [brushlessRecordBytes, brushlessAt, List.range', motorByteCleaned_outside s (.inr h),
    motorByteCleaned_outside s (.inr (Nat.le_succ_of_le h))]

theorem ValidMotorFrame.motorHeader_decoded {s : State} {len : Nat} (h : ValidMotorFrame s len) :
    motorHeader (decodedMotors s) = (List.range' 0 3).map (motorByteCleaned s) := by
  obtain ⟨popC, popU, popB⟩ := h.populated_decoded
  have hkeep : ∀ a, a < 3 → motorByteCleaned s a = s.fbByte a := fun a ha => motorByteCleaned_outside s (.inl ha)
  simp [motorHeader, popC, popU, popB, List.range', hkeep]

/-- The frame of a decoded frame is the frame itself, cleaned. -/
theorem ValidMotorFrame.motorFrameBytes_decoded {s : State} {len : Nat} (h : ValidMotorFrame s len) :
    motorFrameBytes (decodedMotors s) = (List.range' 0 len).map (motorByteCleaned s) := by
  obtain ⟨hlen, -⟩ := (validMotorFrame_iff s len).1 h
  obtain ⟨popC, popU, popB⟩ := h.populated_decoded
  have hC : controlledBytes (decodedMotors s) =
      (List.range' 3 (4 * (s.fbByte 0).toNat)).map (motorByteCleaned s) := by
    rw [controlledBytes, popC]
    exact flatMap_bytes_recordsAt fun k => controlledRecordBytes_controlledAt s
  have hU : uncontrolledBytes (decodedMotors s) =
      (List.range' (3 + 4 * (s.fbByte 0).toNat) (2 * (s.fbByte 1).toNat)).map (motorByteCleaned s) := by
    rw [uncontrolledBytes, popU]
    exact flatMap_bytes_recordsAt fun k => uncontrolledRecordBytes_uncontrolledAt s
  have hB : brushlessBytes (decodedMotors s) =
      (List.range' (3 + 4 * (s.fbByte 0).toNat + 2 * (s.fbByte 1).toNat) (2 * (s.fbByte 2).toNat)).map
        (motorByteCleaned s) := by
    rw [brushlessBytes, popB]
    exact flatMap_bytes_recordsAt fun k _ => brushlessRecordBytes_brushlessAt s (Nat.le_add_right ..)
  have hjoin : ∀ m n, List.range' 0 m ++ List.range' m n = List.range' 0 (m + n) := fun m n => by
    simpa using List.range'_append_1 (s := 0) (m := m) (n := n)
  rw [motorFrameBytes_eq, h.motorHeader_decoded, hC, hU, hB, ← List.map_append, ← List.map_append, ← List.map_append,
    hjoin, hjoin, hjoin, hlen]

/-- Settles O43: `MOTOR_WRITE` stores the frame of the decoded collection, which is the cleaned frame. -/
theorem motorFrameRoundTrip : Obligations.MotorFrameRoundTrip := by
  intro s len h
  have hframe := h.motorFrameBytes_decoded
  have hlen : (motorFrameBytes (s.setMotor (decodedMotors s)).motor).length = len := by simp [hframe]
  obtain ⟨u, hu, hret, hstored, -⟩ := exec_motorWrite_stores hlen.le
  refine ⟨_, u, exec_motorRead_of_valid ⟨rfl, h⟩, hu, hret.trans hlen, fun a ha => ?_⟩
  have hbyte := hstored.holdsAt a (hlen ▸ ha)
  simpa [hframe] using hbyte

end Sys2Proof.Machine
end

section
/-! The IO operations: the byte of `FB` read verbatim, `tirette` stored as the one byte of the frame, and the two one
after the other in both orders (spec 42 R140 to R143). -/

namespace Sys2Proof.Machine

/-! ### `IO_SIZE` and `IO_READ` -/

/-- Settles O46: the frame has one byte in every state. -/
theorem ioSizeIsOne : Obligations.IoSizeIsOne := ⟨rfl, fun _ => rfl⟩

/-- Settles O44: the two cases of `IO_READ`; where it fails, the value left open is the draw. -/
theorem ioReadTakesTheByteVerbatim : Obligations.IoReadTakesTheByteVerbatim := by
  refine ⟨fun _ _ => rfl, fun src len s => ⟨fun hsrc hlen => exec_ioRead_of_byte s ⟨hsrc, hlen⟩, fun habsent => ?_⟩⟩
  refine ⟨Config.unspec 8 s.draws 0, exec_ioRead_of_no_byte s ?_⟩
  rintro ⟨rfl, hlen⟩
  have hzero : len = 0 := by simpa using habsent
  exact Nat.ne_of_gt hlen hzero

/-! ### `IO_WRITE` -/

/-- `IO_WRITE` where the byte fits: `tirette` stored, 1 in `RET`, nothing else changed. -/
theorem exec_ioWrite_stores {cap : Nat} (s : State) (h : 1 ≤ cap) :
    ∃ t, exec (.ioWrite true true cap) s = .next t ∧ t.ret = 1 ∧ FrameStored s t [s.io.tirette] ∧
      t = { s with ret := t.ret, fb := t.fb } := by
  obtain ⟨m, hm, hwrote⟩ := exec_ioWrite_of_fits s h
  refine ⟨_, hm, rfl, hwrote.frameStored, ?_⟩
  obtain ⟨fb, rfl⟩ := hwrote.exists_setFb
  rfl

theorem exec_ioWrite_of_absent {dst obj : Bool} {cap : Nat} {s : State} (h : dst = false ∨ obj = false ∨ cap = 0) :
    exec (.ioWrite dst obj cap) s = .next (s.setRet 0) := by
  refine exec_of_not_writes rfl ?_
  rintro ⟨rfl, rfl, hcap⟩
  have hzero : cap = 0 := by simpa using h
  exact Nat.ne_of_gt hcap hzero

/-- Settles O45: the two cases of `IO_WRITE`. -/
theorem ioWriteWritesTheByte : Obligations.IoWriteWritesTheByte := by
  refine ⟨fun _ _ _ => rfl, fun dst obj cap s => ⟨exec_ioWrite_of_absent, ?_⟩⟩
  rintro rfl rfl hcap
  exact exec_ioWrite_stores s hcap

/-! ### Encoding and decoding (spec 42 R143) -/

/-- Settles O47: what is stored is the one byte that is read, in either order. -/
theorem ioRoundTrip : Obligations.IoRoundTrip := by
  refine ⟨fun s cap hcap => ?_, fun s => ?_⟩
  · obtain ⟨t, ht, -, hstored, -⟩ := exec_ioWrite_stores s hcap
    have hbyte : t.fbByte 0 = s.io.tirette := hstored 0
    exact ⟨t, _, ht, exec_ioRead_of_byte t ⟨rfl, Nat.le_refl 1⟩, hbyte, rfl⟩
  · obtain ⟨u, hu, hret, hstored, -⟩ := exec_ioWrite_stores (ioReadSucceeds s (s.fbByte 0)) (Nat.le_refl 1)
    have hbyte : u.fbByte 0 = s.fbByte 0 := hstored 0
    exact ⟨_, u, exec_ioRead_of_byte s ⟨rfl, Nat.le_refl 1⟩, hu, hbyte, hret⟩

end Sys2Proof.Machine
end

section
/-! The placeholder operations (spec 43 R150 to R153): no branch on an operand or on the state, so each has one next
state. -/

namespace Sys2Proof.Machine

theorem exec_avoidRead (src : Bool) (len : Nat) (s : State) : exec (.avoidRead src len) s = .next (avoidReadFails s) := rfl

theorem exec_movingRead (src : Bool) (len : Nat) (s : State) :
    exec (.movingRead src len) s = .next (movingReadFails s) := rfl

/-- Settles O48: the next state is the one with the group's flag set, on every state. -/
theorem placeholderReadsAlwaysFail : Obligations.PlaceholderReadsAlwaysFail :=
  ⟨fun _ _ => ⟨rfl, rfl⟩, fun src len s => ⟨exec_avoidRead src len s, exec_movingRead src len s⟩⟩

/-- Settles O49: no operands make a placeholder WRITE one that writes (`Writes` is `False` of it), so it fails as every
other WRITE that does not write. -/
theorem placeholderWritesWriteNothing : Obligations.PlaceholderWritesWriteNothing := by
  refine ⟨fun _ _ _ => ⟨rfl, rfl⟩, fun dst obj cap s => ⟨?_, ?_⟩⟩
  · have havoid : ¬ Writes (.avoidWrite dst obj cap) s := not_false
    exact exec_of_not_writes rfl havoid
  · have hmoving : ¬ Writes (.movingWrite dst obj cap) s := not_false
    exact exec_of_not_writes rfl hmoving

end Sys2Proof.Machine
end

section
/-! The outcome of a command (spec 60 R160) and the idle step (spec 60 R172). -/

namespace Sys2Proof.Machine

/-- Settles O16: each operation is a READ, a WRITE or a SIZE, and `exec_completes` has one argument for each of the
three. -/
theorem everyCommandCompletes : Obligations.EveryCommandCompletes := exec_completes

theorem step_of_done {s : State} (h : s.host = .done) : step s = .next s := by
  simp only [step, takeEvent, h]

/-- Settles O7: an empty script is the third form a script has, beside `step_of_action` and `step_of_branch`. -/
theorem idleBlockStaysAsItIs : Obligations.IdleBlockStaysAsItIs := fun _ => step_of_done

end Sys2Proof.Machine
end

section
/-! Reset and the WRITE commands right after it (spec 70 R180, R182). -/

namespace Sys2Proof.Machine

/-! ### The reset values -/

@[simp] theorem Servo.get_empty (f : ServoField) : Servo.empty.get f = 0 := by
  cases f <;> rfl

@[simp] theorem Controlled.get_empty (f : ControlledField) : Controlled.empty.get f = 0 := by
  cases f <;> rfl

@[simp] theorem Uncontrolled.get_empty (f : UncontrolledField) : Uncontrolled.empty.get f = 0 := by
  cases f <;> rfl

@[simp] theorem Brushless.get_empty (f : BrushlessField) : Brushless.empty.get f = 0 := by
  cases f <;> rfl

theorem readReg_reset (r : Reg) : readReg State.reset r = if isFlag r then 1 else 0 := by
  cases r with
  | servo | controlled | uncontrolled | brushless => simp [readReg, State.reset, isFlag]
  | nbServos | servoParsingFailed | motorParsingFailed | tirette | ioParsingFailed | avoidParsingFailed
  | movingParsingFailed | ret => rfl

/-- A reset keeps nothing of the register fields; what it keeps of the old state, the script and the draws, no register
field reads. -/
theorem readReg_resetBlock (s : State) (r : Reg) : readReg (resetBlock s) r = readReg State.reset r := by
  cases r <;> rfl

/-- Settles O11: an empty slot reads 0 in every field, and the reset of any state reads as `State.reset`. -/
theorem resetGivesTheResetValues : Obligations.ResetGivesTheResetValues :=
  ⟨readReg_reset, fun s r => (readReg_resetBlock s r).trans (readReg_reset r)⟩

/-! ### The frames of the empty collections -/

theorem populated_toList_replicate {α : Type} {ident : α → Byte} {empty : α} (n : Nat) (hempty : ident empty = 0) :
    populated ident (Vector.replicate n empty).toList = [] :=
  populated_eq_nil_iff.2 fun r hr => by
    rw [Vector.toList_replicate] at hr
    rw [List.eq_of_mem_replicate hr, hempty]

theorem populatedSlots_reset : State.reset.servo.populatedSlots = [] := populated_toList_replicate 8 rfl

theorem emitted_reset : State.reset.servo.emitted = [] := rfl

theorem servoFrameBytes_reset : servoFrameBytes State.reset.servo = [0#8] := by
  rw [servoFrameBytes, populatedSlots_reset, emitted_reset]
  rfl

theorem motorFrameBytes_reset : motorFrameBytes State.reset.motor = [0#8, 0#8, 0#8] := by
  have hc : populated Controlled.id State.reset.motor.controlled.toList = [] := populated_toList_replicate 8 rfl
  have hu : populated Uncontrolled.id State.reset.motor.uncontrolled.toList = [] := populated_toList_replicate 8 rfl
  have hb : populated Brushless.id State.reset.motor.brushless.toList = [] := populated_toList_replicate 8 rfl
  rw [motorFrameBytes, hc, hu, hb]
  rfl

/-! ### The WRITE commands right after reset -/

theorem exec_servoWrite_reset :
    ∃ t, exec (.servoWrite true true 1) State.reset = .next t ∧ FrameStored State.reset t [0#8] ∧ t.ret = 1#16 := by
  have hfits : 1 + 6 * State.reset.servo.populatedSlots.length ≤ 1 := by rw [populatedSlots_reset, List.length_nil]
  obtain ⟨t, ht, hret, hstored, -⟩ := exec_servoWrite_stores hfits
  rw [emitted_reset] at hret
  rw [servoFrameBytes_reset] at hstored
  exact ⟨t, ht, hstored, BitVec.eq_of_toNat_eq hret⟩

theorem exec_motorWrite_reset :
    ∃ t, exec (.motorWrite true true 3) State.reset = .next t ∧ FrameStored State.reset t [0#8, 0#8, 0#8] ∧
      t.ret = 3#16 := by
  have hfits : (motorFrameBytes State.reset.motor).length ≤ 3 := by rw [motorFrameBytes_reset]; rfl
  obtain ⟨t, ht, hret, hstored, -⟩ := exec_motorWrite_stores hfits
  rw [motorFrameBytes_reset] at hret hstored
  exact ⟨t, ht, hstored, BitVec.eq_of_toNat_eq hret⟩

/-- Settles O13: each WRITE stores the frame of a collection with no populated slot, and `IO_WRITE` the byte 0. -/
theorem writesRightAfterReset : Obligations.WritesRightAfterReset := by
  obtain ⟨t, ht, hservo, htret⟩ := exec_servoWrite_reset
  obtain ⟨u, hu, hmotor, huret⟩ := exec_motorWrite_reset
  obtain ⟨v, hv, hvret, hio, -⟩ := exec_ioWrite_stores State.reset (Nat.le_refl 1)
  exact ⟨⟨t, ht, hservo 0, htret⟩, ⟨u, hu, hmotor 0, hmotor 1, hmotor 2, huret⟩, ⟨v, hv, hio 0, hvret⟩⟩

end Sys2Proof.Machine
end
